-- ==== Sys2Proof/Word.lean ====
section
/-! DEFINITION. The widths of this machine: 8-bit bytes, 16-bit words, and the operand fields of an
instruction word (00_scope.md R5, R7; 30_encoding.md R71). Every value is unsigned (R8). -/

namespace Sys2Proof

/-- An 8-bit value: a general register, a timer, a memory byte, an immediate `kk`. -/
abbrev Byte := BitVec 8

/-- A 16-bit value: an instruction word, `pc`, `I`, a stack entry. -/
abbrev Word := BitVec 16

/-- The number of a general register, the 4-bit field `x` or `y` (R20: every value names a register). -/
abbrev Reg := BitVec 4

/-- The 4-bit field `n`, the sprite height of `Draw`. -/
abbrev Nibble := BitVec 4

/-- The 12-bit field `addr` (`nnn`). -/
abbrev Addr := BitVec 12

/-- A key number 0x0..0xF (40_execution_engine.md R109). -/
abbrev Key := BitVec 4

/-- VF, register 0xF, the flag output (10_state.md R21). -/
abbrev vf : Reg := 0xF#4

end Sys2Proof
end

