-- ==== Sys2Proof/Config.lean ====
section
/-! DEFINITION. What an implementation fixes (the named parameters of 00_scope.md R6) and the free
values: the environment's answers that no rule fixes. A free value is an opaque constant without a
body, so no proof can see what it is. -/

namespace Sys2Proof.Config

/-- `SUBN_UNDERFLOW` (R6, R161, D18): does `Subn` wrap or fault when the subtraction underflows? -/
inductive SubnUnderflow where
  | wrap
  | fault
deriving DecidableEq, Repr

/-- `VF_ORDER` (R6, R165, D19): the order of the flag and result writes of Sub, Subn, Shr and Shl. -/
inductive VfOrder where
  | sequential
  | latched
deriving DecidableEq, Repr

/-- `FX0A_PC` (R6, R226, D20): where pc goes after a completed key wait. -/
inductive Fx0aPc where
  | advance
  | stay
deriving DecidableEq, Repr

/-- The parameters of R6 that are fixed for a machine. The oracles RNG, KEYS and RUNNING of R6 are the
free values below. -/
structure Params where
  /-- `FONT`: 80 bytes copied to 0x000..0x04F at reset (R33, R312). -/
  font : Vector Byte 80
  /-- `ADD_CLEARS_VF` (R158, D17). -/
  addClearsVf : Bool
  /-- `SUBN_UNDERFLOW` (R161, D18). -/
  subnUnderflow : SubnUnderflow
  /-- `VF_ORDER` (R165, D19). -/
  vfOrder : VfOrder
  /-- `STRICT_5_9` (R80, D14). -/
  strict59 : Bool
  /-- `FX0A_PC` (R226, D20). -/
  fx0aPc : Fx0aPc
deriving DecidableEq, Repr

/-- FREE VALUE. The display sink's `n`-th answer to `isRunning()` (R107, R110, U12; log 1). -/
opaque isRunning : Nat → Bool

/-- FREE VALUE. The 16 keys' levels at the `n`-th `isKeyDown` poll, bit k for key k (R109, U10; log 2).
A poll looks at one bit only, so each answer is free by itself. -/
opaque keyLevels : Nat → BitVec 16

/-- FREE VALUE. What the key source shows the `n`-th time a waiting engine looks: no key-down event yet,
or the key that went down (R109, R117, U9; log 3). -/
opaque keyDownEvent : Nat → Option Key

/-- FREE VALUE. The `n`-th byte of the random source (R111, U11; log 4). -/
opaque randByte : Nat → Byte

end Sys2Proof.Config
end

