-- ==== Sys2Proof/Machine/State.lean ====
section
/-! DEFINITION. The state of the CORE block (10_state.md), as plain data, and its value after reset. -/

namespace Sys2Proof.Machine

open Sys2Proof.Config

/-- Memory (R32): address and byte, addresses strictly rising, no entry equal to what an unlisted address
reads as (`Memory.background`, log 13). -/
abbrev Memory := List Host.Cell

/-- The framebuffer (R34, R250): 32 rows, top to bottom, of 64 one-bit cells, left to right. -/
abbrev Screen := Vector (Vector Bool 64) 32

/-- The engine's own two states (40_execution_engine.md R100). -/
inductive Status where
  | run
  | fault
deriving DecidableEq, Repr

/-- The faults of 60_exceptions.md R280, and `none` for code 0. -/
inductive FaultCode where
  | none
  | decodeError
  | unknownKey
  | stackOverflow
  | stackUnderflow
  | memoryOutOfBounds
  | subnUnderflow
deriving DecidableEq, Repr

/-- The key-wait hold (R36, R117): the pending destination and the waiting word's pc. -/
structure KeyWait where
  x : Reg
  pc : Word
deriving DecidableEq, Repr

/-- What `cycle_resp` carries (R108). -/
inductive CycleResp where
  | done
  | halted
  | fault (code : FaultCode) (pc info : Word)
deriving DecidableEq, Repr

/-- One of the core's questions to its environment: the answers already fixed, the next first, and how
many answers were drawn so far. Past the fixed ones the answer is a free value (log 1 to 5). -/
structure Input (α : Type) where
  script : List α
  count : Nat
deriving DecidableEq, Repr

/-- Everything the spec gives the machine, then what stands at its ports and straps. -/
structure State where
  /-- V0..VF (R20). -/
  v : Vector Byte 16
  /-- The index register I (R23). -/
  i : Word
  /-- The program counter (R24): the address of the executing word's high byte. -/
  pc : Word
  /-- The stack pointer, a count of 0..16 (R26). -/
  sp : Fin 17
  /-- The call stack; entry 0 is the oldest (R26). -/
  stack : Vector Word 16
  /-- The delay timer (R27). -/
  dt : Byte
  /-- The sound timer (R28). -/
  st : Byte
  /-- Memory (R32). -/
  mem : Memory
  /-- The framebuffer (R34). -/
  fb : Screen
  /-- The dirty mark (R35). -/
  dirty : Bool
  /-- The blitter's port `collision`: `flag_out` of the last `displaySprite` (R251; log 17). -/
  collision : Bool
  /-- RUN or FAULT (R31, R100). -/
  status : Status
  /-- The fault record's code (R31). -/
  faultCode : FaultCode
  /-- The pc of the faulting cycle (R31). -/
  faultPc : Word
  /-- The fault's payload (R31). -/
  faultInfo : Word
  /-- The key-wait hold, none when the engine is not waiting (R36). -/
  hold : Option KeyWait
  /-- MODEL: the answer that `cycle_resp` carries; none before the first answer and while a key wait
  keeps the cycle open (log 10). -/
  resp : Option CycleResp
  /-- MODEL: the ROM load port may still be used: no load and no cycle since the reset (R315; log 11). -/
  loadOpen : Bool
  /-- MODEL: the parameters of R6, which no step changes (log 6). -/
  params : Params
  /-- MODEL: the answers to `isRunning()` (R110; log 1). -/
  running : Input Bool
  /-- MODEL: the key levels that the polls meet (R109; log 2). -/
  keyPoll : Input (BitVec 16)
  /-- MODEL: what a waiting engine sees at the key source (R109; log 3). -/
  keyWait : Input (Option Key)
  /-- MODEL: the random source (R111; log 4). -/
  rng : Input Byte
deriving DecidableEq, Repr

/-- Reasons for the machine to stop without a next state. There is NONE: every fault of this hardware has
an entry the spec describes (R287), so a faulting cycle has a next state with the fault record written,
and a waiting engine is a state of its own (R117). No constructor, so nothing raises one, and a claim
that no step stops is true of this hardware's cycle by R101 (log 9). -/
inductive Fault
deriving DecidableEq, Repr

/-- Reasons for the model to give no meaning. -/
inductive Refusal where
  /-- Raised by an arm of `exec` whose instruction has no meaning yet (none is left); safe, since nothing
  is claimed of such an instruction. -/
  | notModelled (mnemonic : String)
deriving DecidableEq, Repr

/-- What a meaning answers. -/
abbrev Result := Host.Outcome State Fault Refusal

/-- An input about which nothing is fixed and from which nothing was drawn (log 5). -/
def Input.untouched {α : Type} : Input α := ⟨[], 0⟩

/-- The machine right after reset with the default parameters (R37, R311, R312): memory lists nothing,
since an unlisted address reads as its reset contents (log 13). -/
def State.reset : State where
  v := Vector.replicate 16 0x00#8
  i := 0x0000#16
  pc := 0x0200#16
  sp := 0
  stack := Vector.replicate 16 0x0000#16
  dt := 0x00#8
  st := 0x00#8
  mem := []
  fb := Vector.replicate 32 (Vector.replicate 64 false)
  dirty := false
  collision := false
  status := .run
  faultCode := .none
  faultPc := 0x0000#16
  faultInfo := 0x0000#16
  hold := none
  resp := none
  loadOpen := true
  params := defaultParams
  running := Input.untouched
  keyPoll := Input.untouched
  keyWait := Input.untouched
  rng := Input.untouched

end Sys2Proof.Machine
end

