-- ==== Sys2Proof/Machine/Ops.lean ====
section
/-! DEFINITION. The named operations over memory, registers, stack and inputs, the end of a cycle, and
fault entry. Every meaning is written over these. -/

namespace Sys2Proof.Machine

open Sys2Proof.Config

/-! ### Memory (20_memory.md) -/

/-- `MEM_SIZE` (R5). -/
def memSize : Nat := 4096

/-- What an unlisted address reads as: the reset contents of R37 with the default `FONT` (log 13). -/
def Memory.background (a : Nat) : Byte := if h : a < 80 then standardFont[a] else 0x00#8

/-- The byte at an address. -/
def Memory.read : Memory → Nat → Byte
  | [], a => Memory.background a
  | (a', b) :: m, a => if a = a' then b else Memory.read m a

/-- An entry for the address, or none where the byte is what the unlisted address reads as. -/
def Memory.entry (a : Nat) (b : Byte) : Memory := if b = Memory.background a then [] else [(a, b)]

/-- Write one byte, keeping the canonical form. -/
def Memory.put : Memory → Nat → Byte → Memory
  | [], a, b => Memory.entry a b
  | (a', b') :: m, a, b =>
    if a < a' then Memory.entry a b ++ (a', b') :: m
    else if a = a' then Memory.entry a b ++ m
    else (a', b') :: Memory.put m a b

/-- Write bytes to ascending addresses (R52). -/
def Memory.putAll : Memory → Nat → List Byte → Memory
  | m, _, [] => m
  | m, a, b :: bs => Memory.putAll (Memory.put m a b) (a + 1) bs

/-- The canonical form: addresses strictly rising and inside memory, no entry equal to what an unlisted
address reads as. -/
abbrev Memory.wf (m : Memory) : Prop :=
  m.Pairwise (fun c d => c.1 < d.1) ∧ ∀ c ∈ m, c.1 < memSize ∧ c.2 ≠ Memory.background c.1

/-- Does an access of `n` bytes at base `a` stay inside memory (R54)? One of no bytes always does (R55). -/
def accessFits (a n : Nat) : Bool := n == 0 || a + n ≤ memSize

/-- `MemRead(a, n)` of R9: the bytes, or none where it raises `MemoryOutOfBounds(a)`. -/
def Memory.readBytes (m : Memory) (a n : Nat) : Option (List Byte) :=
  if accessFits a n then some ((List.range n).map fun k => Memory.read m (a + k)) else none

/-- `MemWrite(a, n, v)` of R9 with `n` the length of `v`: the memory after, or none where it raises
`MemoryOutOfBounds(a)`; no byte is then written (R54). -/
def Memory.writeBytes (m : Memory) (a : Nat) (bytes : List Byte) : Option Memory :=
  if accessFits a bytes.length then some (Memory.putAll m a bytes) else none

/-! ### General registers (10_state.md R20, 42_alu_and_regfile.md R150) -/

/-- `V[x]`. -/
def State.reg (s : State) (x : Reg) : Byte := s.v[x.toNat]'x.isLt

/-- `V[x] <- b`. No register is hardwired (R20). -/
def State.setReg (s : State) (x : Reg) (b : Byte) : State := { s with v := s.v.set x.toNat b x.isLt }

/-- The bulk read port: `V[0..x]` (R150). -/
def State.regsUpTo (s : State) (x : Reg) : List Byte :=
  (List.range (x.toNat + 1)).map fun k => s.reg (BitVec.ofNat 4 k)

/-- The bulk write port: the bytes go to the registers from number `k` on, in rising order (R150). -/
def State.setRegsFrom : State → Nat → List Byte → State
  | s, _, [] => s
  | s, k, b :: bs => State.setRegsFrom (s.setReg (BitVec.ofNat 4 k) b) (k + 1) bs

/-! ### Questions to the environment (40_execution_engine.md R109 to R111) -/

/-- The next answer: the next fixed one, else the free value for this draw. -/
def Input.peek {α : Type} (free : Nat → α) (p : Input α) : α :=
  match p.script with
  | a :: _ => a
  | [] => free p.count

/-- The input after one answer was drawn. -/
def Input.advance {α : Type} (p : Input α) : Input α := ⟨p.script.tail, p.count + 1⟩

/-- The display sink's answer to `isRunning()` (R110). -/
def State.runningNow (s : State) : Bool := s.running.peek isRunning

/-- The state after the `isRunning` query. -/
def State.drawRunning (s : State) : State := { s with running := s.running.advance }

/-- `KeyDown(k)` (R109): is key `k` down at this poll? -/
def State.keyDown (s : State) (k : Key) : Bool := (s.keyPoll.peek keyLevels).getLsbD k.toNat

/-- The state after a key poll. -/
def State.drawKeyPoll (s : State) : State := { s with keyPoll := s.keyPoll.advance }

/-- What a waiting engine sees at the key source now: no event, or the key that went down (R109). -/
def State.keyEvent (s : State) : Option Key := s.keyWait.peek keyDownEvent

/-- The state after a look at the key source. -/
def State.drawKeyEvent (s : State) : State := { s with keyWait := s.keyWait.advance }

/-- `RandByte()` (R111): the next byte of the random source. -/
def State.randNow (s : State) : Byte := s.rng.peek randByte

/-- The state after a draw from the random source. -/
def State.drawRand (s : State) : State := { s with rng := s.rng.advance }

/-! ### The end of a cycle (R101 steps 6 to 8, R104) -/

/-- One timer step: down by 1 when nonzero, clamped at 0. -/
def timerStep (t : Byte) : Byte := if t = 0x00#8 then t else t - 1

/-- `pc <- next_pc`, the timers decrement, the cycle answers `Done`. -/
def State.endCycle (s : State) (nextPc : Word) : State :=
  { s with
    pc := nextPc
    dt := timerStep s.dt
    st := timerStep s.st
    resp := some .done
    loadOpen := false }

/-- The default program-counter policy, `pc + 2` (R102). -/
def State.endNext (s : State) : State := s.endCycle (s.pc + 2)

/-- The conditional skip, `condition ? pc + 4 : pc + 2` (R102). -/
def State.endSkip (s : State) (condition : Bool) : State :=
  s.endCycle (if condition then s.pc + 4 else s.pc + 2)

/-! ### Fault entry (60_exceptions.md R286, R287) -/

/-- `raise F(info)`: the fault record is written and reported; nothing else of the cycle happens. The
record is left by reset only (R288); there is no return from a fault. -/
def State.raise (s : State) (code : FaultCode) (info : Word) : State :=
  { s with
    status := .fault
    faultCode := code
    faultPc := s.pc
    faultInfo := info
    resp := some (.fault code s.pc info)
    loadOpen := false }

/-! ### The key wait (R117, 44_timers_and_keys.md R225, R226) -/

/-- pc after a completed key wait (R226). -/
def keyWaitNextPc (policy : Fx0aPc) (pc : Word) : Word :=
  match policy with
  | .advance => pc + 2
  | .stay => pc

/-- Look at the key source for the waiting word `w`. With no key-down event the engine holds: no
architectural state changes and the cycle stays open. With one, the key goes to the register, the hold
ends and the cycle completes. -/
def State.awaitKey (s : State) (w : KeyWait) : State :=
  match s.keyEvent with
  | none => { s.drawKeyEvent with hold := some w, resp := none, loadOpen := false }
  | some k =>
    ({ s.drawKeyEvent with hold := none }.setReg w.x (k.zeroExtend 8)).endCycle
      (keyWaitNextPc s.params.fx0aPc w.pc)

end Sys2Proof.Machine
end

