-- ==== Sys2Proof/Syntax.lean ====
section
/-! DEFINITION. The instructions: the 34 variants of 30_encoding.md R86, each with the operand fields
R87 gives it. The two rows 0nnn and 1nnn of the opcode table are one variant, `Jump` (R77, C1). -/

namespace Sys2Proof

/-- One constructor per variant, in the order of the variant ids of R86. -/
inductive Instr where
  /-- `00E0` (R256). -/
  | clearScreen
  /-- `00EE` (R122). -/
  | ret
  /-- `0nnn`, `1nnn` (R120). -/
  | jump (addr : Addr)
  /-- `2nnn` (R121). -/
  | call (addr : Addr)
  /-- `3xkk` (R124). -/
  | skipEqualByte (x : Reg) (kk : Byte)
  /-- `4xkk` (R125). -/
  | skipNotEqualByte (x : Reg) (kk : Byte)
  /-- `5xy0` (R126). -/
  | skipEqualReg (x y : Reg)
  /-- `6xkk` (R152). -/
  | loadByte (x : Reg) (kk : Byte)
  /-- `7xkk` (R153). -/
  | addByte (x : Reg) (kk : Byte)
  /-- `8xy0` (R154). -/
  | move (x y : Reg)
  /-- `8xy1` (R155). -/
  | or (x y : Reg)
  /-- `8xy2` (R156). -/
  | and (x y : Reg)
  /-- `8xy3` (R157). -/
  | xor (x y : Reg)
  /-- `8xy4` (R158). -/
  | add (x y : Reg)
  /-- `8xy5` (R159). -/
  | sub (x y : Reg)
  /-- `8x-6`, the y bits not carried (R160). -/
  | shr (x : Reg)
  /-- `8xy7` (R161). -/
  | subn (x y : Reg)
  /-- `8x-E`, the y bits not carried (R162). -/
  | shl (x : Reg)
  /-- `9xy0` (R127). -/
  | skipNotEqualReg (x y : Reg)
  /-- `Annn` (R190). -/
  | loadIndex (addr : Addr)
  /-- `Bnnn` (R123). -/
  | jumpV0 (addr : Addr)
  /-- `Cxkk` (R163). -/
  | random (x : Reg) (kk : Byte)
  /-- `Dxyn` (R257). -/
  | draw (x y : Reg) (n : Nibble)
  /-- `Ex9E` (R223). -/
  | skipKeyPressed (x : Reg)
  /-- `ExA1` (R224). -/
  | skipKeyNotPressed (x : Reg)
  /-- `Fx07` (R220). -/
  | getDelay (x : Reg)
  /-- `Fx0A` (R225). -/
  | waitKeyPressed (x : Reg)
  /-- `Fx15` (R221). -/
  | setDelay (x : Reg)
  /-- `Fx18` (R222). -/
  | setSound (x : Reg)
  /-- `Fx1E` (R191). -/
  | addI (x : Reg)
  /-- `Fx29` (R192). -/
  | loadSprite (x : Reg)
  /-- `Fx33` (R193). -/
  | loadBCD (x : Reg)
  /-- `Fx55` (R194). -/
  | saveRegisters (x : Reg)
  /-- `Fx65` (R195). -/
  | loadRegisters (x : Reg)
deriving DecidableEq, Repr

end Sys2Proof
end

