-- ==== Sys2Proof/WellFormed.lean ====
section
/-! DEFINITION. Which terms are well formed. An instruction's fields have exactly the widths of
30_encoding.md R71 and R72, all of whose values are valid, so an ill-formed `Instr` cannot be written
("every index is in range by construction", 10_state.md R20). What can be ill formed is the decoder's
bundle of outputs (R85) and a ROM image (70_reset_and_hazards.md R314); each has its check here. -/

namespace Sys2Proof

/-- The outputs of `chip8_decoder` (R85). `variant` is absent where R85 calls it meaningless
(`valid` = 0; log 20). -/
structure DecoderOut where
  valid : Bool
  variant : Option (BitVec 6)
  fX : Reg
  fY : Reg
  fN : Nibble
  fKk : Byte
  fAddr : Addr
  errWord : Word
deriving DecidableEq, Repr

/-- R85: `variant` carries a meaning exactly when `valid` is 1. -/
def DecoderOut.variantPresent (d : DecoderOut) : Bool := d.variant.isSome == d.valid

/-- R86: "Ids 34 to 63 are never produced." -/
def DecoderOut.variantInRange (d : DecoderOut) : Bool := d.variant.all fun v => v.toNat < 34

/-- R71: "`kk` is `y ++ n`, and `addr` is `x ++ y ++ n`." -/
def DecoderOut.fieldsOverlap (d : DecoderOut) : Bool :=
  d.fKk == (d.fY ++ d.fN : BitVec 8) && d.fAddr == (d.fX ++ d.fY ++ d.fN : BitVec 12)

/-- R85: the address field is driven from the word that `err_word` shows. -/
def DecoderOut.fieldsFromWord (d : DecoderOut) : Bool := d.fAddr == d.errWord.extractLsb' 0 12

/-- A bundle the decoder may show. -/
def DecoderOut.wf (d : DecoderOut) : Bool :=
  d.variantPresent && d.variantInRange && d.fieldsOverlap && d.fieldsFromWord

/-- `PROG_MAX` = 4096 - 0x200 (R5). -/
def progMax : Nat := 3584

/-- A ROM image that the load port takes (R313, R314). -/
def romFits (rom : List Byte) : Bool := rom.length ≤ progMax

end Sys2Proof
end

