-- ==== Sys2Proof/Machine/Boot.lean ====
section
/-! DEFINITION. The reset port and the ROM load port (70_reset_and_hazards.md). -/

namespace Sys2Proof.Machine

open Sys2Proof.Config

/-- The state after reset of a machine with parameters `p` (R37, R311): every register as after the
default reset, and `p`'s font copied to 0x000..0x04F (R312). -/
def State.resetWith (p : Params) : State :=
  { State.reset with mem := Memory.putAll [] 0 p.font.toList, params := p }

/-- The `reset` port (R310): every piece of state takes its reset value, the fault record and a key-wait
hold are cleared. The parameters are the machine's own and the environment's answers go on from where
they are (log 18). -/
def State.resetPort (s : State) : State :=
  { State.resetWith s.params with
    running := s.running
    keyPoll := s.keyPoll
    keyWait := s.keyWait
    rng := s.rng }

/-- The answer of the ROM load port. -/
inductive LoadOutcome where
  /-- The image stands at 0x200. -/
  | ok (s : State)
  /-- `LoadTooLarge`: no byte copied, the state as before (R314). -/
  | tooLarge (s : State)
  /-- A load outside the window between a reset and the first cycle, to which R315 gives no meaning
  (log 11). -/
  | noMeaning
deriving DecidableEq, Repr

/-- `PROG_BASE` (R5). -/
def progBase : Nat := 0x200

/-- `load(rom)` (R313): the bytes are copied verbatim from 0x200 on; nothing else changes. -/
def State.loadRom (s : State) (rom : List Byte) : LoadOutcome :=
  if !s.loadOpen then .noMeaning
  else if !romFits rom then .tooLarge s
  else .ok { s with mem := Memory.putAll s.mem progBase rom, loadOpen := false }

end Sys2Proof.Machine
end

