-- ==== Sys2Proof/Decode.lean ====
section
/-! DEFINITION. `chip8_decoder` (30_encoding.md): the fields, the decode table, the ports, the opcode
table as data, and the encoder written from the same patterns. -/

namespace Sys2Proof

/-! ### Fields (R71) -/

/-- The top nibble `w[15:12]`. -/
def fieldOp (w : Word) : Nibble := w.extractLsb' 12 4
/-- `x` = `w[11:8]`. -/
def fieldX (w : Word) : Reg := w.extractLsb' 8 4
/-- `y` = `w[7:4]`. -/
def fieldY (w : Word) : Reg := w.extractLsb' 4 4
/-- `n` = `w[3:0]`. -/
def fieldN (w : Word) : Nibble := w.extractLsb' 0 4
/-- `kk` = `w[7:0]`. -/
def fieldKk (w : Word) : Byte := w.extractLsb' 0 8
/-- `addr` = `w[11:0]`. -/
def fieldAddr (w : Word) : Addr := w.extractLsb' 0 12

/-! ### The decode table -/

/-- The decoder's answer for one word: a variant, or the decode error that carries the word (R73). -/
inductive Decoded where
  | instr (i : Instr)
  | unknownOpcode (w : Word)
deriving DecidableEq, Repr

/-- Family 0 (R75, R76): two exact words, and every other one is a jump. -/
def decodeFamily0 (w : Word) : Decoded :=
  if w = 0x00E0#16 then .instr .clearScreen
  else if w = 0x00EE#16 then .instr .ret
  else .instr (.jump (fieldAddr w))

/-- Families 5 and 9 (R79, R80): under `STRICT_5_9` a nonzero n fails, else n is ignored. -/
def decodeRegSkip (strict : Bool) (i : Instr) (w : Word) : Decoded :=
  if strict && fieldN w != 0#4 then .unknownOpcode w else .instr i

/-- Family 8 (R81), selected by n. -/
def decodeFamily8 (w : Word) : Decoded :=
  match (fieldN w).toNat with
  | 0x0 => .instr (.move (fieldX w) (fieldY w))
  | 0x1 => .instr (.or (fieldX w) (fieldY w))
  | 0x2 => .instr (.and (fieldX w) (fieldY w))
  | 0x3 => .instr (.xor (fieldX w) (fieldY w))
  | 0x4 => .instr (.add (fieldX w) (fieldY w))
  | 0x5 => .instr (.sub (fieldX w) (fieldY w))
  | 0x6 => .instr (.shr (fieldX w))
  | 0x7 => .instr (.subn (fieldX w) (fieldY w))
  | 0xE => .instr (.shl (fieldX w))
  | _ => .unknownOpcode w

/-- Family E (R82), selected by kk. -/
def decodeFamilyE (w : Word) : Decoded :=
  match (fieldKk w).toNat with
  | 0x9E => .instr (.skipKeyPressed (fieldX w))
  | 0xA1 => .instr (.skipKeyNotPressed (fieldX w))
  | _ => .unknownOpcode w

/-- Family F (R83), selected by kk. -/
def decodeFamilyF (w : Word) : Decoded :=
  match (fieldKk w).toNat with
  | 0x07 => .instr (.getDelay (fieldX w))
  | 0x0A => .instr (.waitKeyPressed (fieldX w))
  | 0x15 => .instr (.setDelay (fieldX w))
  | 0x18 => .instr (.setSound (fieldX w))
  | 0x1E => .instr (.addI (fieldX w))
  | 0x29 => .instr (.loadSprite (fieldX w))
  | 0x33 => .instr (.loadBCD (fieldX w))
  | 0x55 => .instr (.saveRegisters (fieldX w))
  | 0x65 => .instr (.loadRegisters (fieldX w))
  | _ => .unknownOpcode w

/-- The decoder: a pure total function of the word (R73, R74, R93), under the parameter `STRICT_5_9`. -/
def decodeWord (strict : Bool) (w : Word) : Decoded :=
  match (fieldOp w).toNat with
  | 0x0 => decodeFamily0 w
  | 0x1 => .instr (.jump (fieldAddr w))
  | 0x2 => .instr (.call (fieldAddr w))
  | 0x3 => .instr (.skipEqualByte (fieldX w) (fieldKk w))
  | 0x4 => .instr (.skipNotEqualByte (fieldX w) (fieldKk w))
  | 0x5 => decodeRegSkip strict (.skipEqualReg (fieldX w) (fieldY w)) w
  | 0x6 => .instr (.loadByte (fieldX w) (fieldKk w))
  | 0x7 => .instr (.addByte (fieldX w) (fieldKk w))
  | 0x8 => decodeFamily8 w
  | 0x9 => decodeRegSkip strict (.skipNotEqualReg (fieldX w) (fieldY w)) w
  | 0xA => .instr (.loadIndex (fieldAddr w))
  | 0xB => .instr (.jumpV0 (fieldAddr w))
  | 0xC => .instr (.random (fieldX w) (fieldKk w))
  | 0xD => .instr (.draw (fieldX w) (fieldY w) (fieldN w))
  | 0xE => decodeFamilyE w
  | _ => decodeFamilyF w

/-- The word of two bytes in memory order, the first byte high (20_memory.md R51). -/
def wordOfBytes (hi lo : Byte) : Word := hi ++ lo

/-- The answer of the byte-level decoder. -/
inductive ByteDecoded where
  /-- An instruction, and the bytes after its two. -/
  | instr (i : Instr) (rest : List Byte)
  /-- The decode error, with its word (R73). -/
  | unknownOpcode (w : Word)
  /-- Fewer than the two bytes of a word. -/
  | truncated
deriving DecidableEq, Repr

/-- Decoding of a byte stream: every instruction is exactly two bytes (R70). -/
def decodeBytes (strict : Bool) : List Byte → ByteDecoded
  | hi :: lo :: rest =>
    match decodeWord strict (wordOfBytes hi lo) with
    | .instr i => .instr i rest
    | .unknownOpcode w => .unknownOpcode w
  | _ => .truncated

/-! ### The encoder -/

/-- The word of an instruction. `Jump` is written with its own opcode 1nnn, and the y bits that
`Shr` and `Shl` do not carry are written as 0 (log 19). -/
def encode : Instr → Word
  | .clearScreen => 0x00E0#16
  | .ret => 0x00EE#16
  | .jump a => 0x1#4 ++ a
  | .call a => 0x2#4 ++ a
  | .skipEqualByte x kk => 0x3#4 ++ x ++ kk
  | .skipNotEqualByte x kk => 0x4#4 ++ x ++ kk
  | .skipEqualReg x y => 0x5#4 ++ x ++ y ++ 0x0#4
  | .loadByte x kk => 0x6#4 ++ x ++ kk
  | .addByte x kk => 0x7#4 ++ x ++ kk
  | .move x y => 0x8#4 ++ x ++ y ++ 0x0#4
  | .or x y => 0x8#4 ++ x ++ y ++ 0x1#4
  | .and x y => 0x8#4 ++ x ++ y ++ 0x2#4
  | .xor x y => 0x8#4 ++ x ++ y ++ 0x3#4
  | .add x y => 0x8#4 ++ x ++ y ++ 0x4#4
  | .sub x y => 0x8#4 ++ x ++ y ++ 0x5#4
  | .shr x => 0x8#4 ++ x ++ 0x0#4 ++ 0x6#4
  | .subn x y => 0x8#4 ++ x ++ y ++ 0x7#4
  | .shl x => 0x8#4 ++ x ++ 0x0#4 ++ 0xE#4
  | .skipNotEqualReg x y => 0x9#4 ++ x ++ y ++ 0x0#4
  | .loadIndex a => 0xA#4 ++ a
  | .jumpV0 a => 0xB#4 ++ a
  | .random x kk => 0xC#4 ++ x ++ kk
  | .draw x y n => 0xD#4 ++ x ++ y ++ n
  | .skipKeyPressed x => 0xE#4 ++ x ++ 0x9E#8
  | .skipKeyNotPressed x => 0xE#4 ++ x ++ 0xA1#8
  | .getDelay x => 0xF#4 ++ x ++ 0x07#8
  | .waitKeyPressed x => 0xF#4 ++ x ++ 0x0A#8
  | .setDelay x => 0xF#4 ++ x ++ 0x15#8
  | .setSound x => 0xF#4 ++ x ++ 0x18#8
  | .addI x => 0xF#4 ++ x ++ 0x1E#8
  | .loadSprite x => 0xF#4 ++ x ++ 0x29#8
  | .loadBCD x => 0xF#4 ++ x ++ 0x33#8
  | .saveRegisters x => 0xF#4 ++ x ++ 0x55#8
  | .loadRegisters x => 0xF#4 ++ x ++ 0x65#8

/-- The bytes of a word as memory stores them, high byte first (R51). -/
def bytesOfWord (w : Word) : List Byte := [w.extractLsb' 8 8, w.extractLsb' 0 8]

/-- The bytes of an instruction. -/
def encodeBytes (i : Instr) : List Byte := bytesOfWord (encode i)

/-! ### Variant ids and the decoder's ports -/

/-- The variant id of R86. -/
def Instr.variantId : Instr → BitVec 6
  | .clearScreen => 0
  | .ret => 1
  | .jump _ => 2
  | .call _ => 3
  | .skipEqualByte _ _ => 4
  | .skipNotEqualByte _ _ => 5
  | .skipEqualReg _ _ => 6
  | .loadByte _ _ => 7
  | .addByte _ _ => 8
  | .move _ _ => 9
  | .or _ _ => 10
  | .and _ _ => 11
  | .xor _ _ => 12
  | .add _ _ => 13
  | .sub _ _ => 14
  | .shr _ => 15
  | .subn _ _ => 16
  | .shl _ => 17
  | .skipNotEqualReg _ _ => 18
  | .loadIndex _ => 19
  | .jumpV0 _ => 20
  | .random _ _ => 21
  | .draw _ _ _ => 22
  | .skipKeyPressed _ => 23
  | .skipKeyNotPressed _ => 24
  | .getDelay _ => 25
  | .waitKeyPressed _ => 26
  | .setDelay _ => 27
  | .setSound _ => 28
  | .addI _ => 29
  | .loadSprite _ => 30
  | .loadBCD _ => 31
  | .saveRegisters _ => 32
  | .loadRegisters _ => 33

/-- The variant id of an answer, none for a decode error. -/
def Decoded.variantId? : Decoded → Option (BitVec 6)
  | .instr i => some i.variantId
  | .unknownOpcode _ => none

/-- The decoder's outputs for an input word (R85): the fields are driven from their fixed positions
whatever the variant, and `err_word` equals the word. -/
def decoderPorts (strict : Bool) (w : Word) : DecoderOut where
  valid := (decodeWord strict w).variantId?.isSome
  variant := (decodeWord strict w).variantId?
  fX := fieldX w
  fY := fieldY w
  fN := fieldN w
  fKk := fieldKk w
  fAddr := fieldAddr w
  errWord := w

/-! ### The opcode table as data -/

/-- One row: a word matches when its bits under `mask` are `pattern`. `maskLoose` is the mask that
holds when `STRICT_5_9` is false (the same but for families 5 and 9). -/
structure OpcodeRow where
  pattern : Word
  mask : Word
  maskLoose : Word
  variant : BitVec 6
deriving DecidableEq, Repr

/-- A row whose mask does not depend on `STRICT_5_9`. -/
def opcodeRow (pattern mask : Word) (variant : BitVec 6) : OpcodeRow := ⟨pattern, mask, mask, variant⟩

/-- The 35 rows of spec/opcode_table.json. The two exact words of family 0 stand before the row 0nnn,
over which they take priority (R76). -/
def opcodeTable : List OpcodeRow :=
  [opcodeRow 0x00E0 0xFFFF 0, opcodeRow 0x00EE 0xFFFF 1, opcodeRow 0x0000 0xF000 2,
   opcodeRow 0x1000 0xF000 2, opcodeRow 0x2000 0xF000 3, opcodeRow 0x3000 0xF000 4,
   opcodeRow 0x4000 0xF000 5, ⟨0x5000, 0xF00F, 0xF000, 6⟩, opcodeRow 0x6000 0xF000 7,
   opcodeRow 0x7000 0xF000 8, opcodeRow 0x8000 0xF00F 9, opcodeRow 0x8001 0xF00F 10,
   opcodeRow 0x8002 0xF00F 11, opcodeRow 0x8003 0xF00F 12, opcodeRow 0x8004 0xF00F 13,
   opcodeRow 0x8005 0xF00F 14, opcodeRow 0x8006 0xF00F 15, opcodeRow 0x8007 0xF00F 16,
   opcodeRow 0x800E 0xF00F 17] ++
  [⟨0x9000, 0xF00F, 0xF000, 18⟩, opcodeRow 0xA000 0xF000 19, opcodeRow 0xB000 0xF000 20,
   opcodeRow 0xC000 0xF000 21, opcodeRow 0xD000 0xF000 22, opcodeRow 0xE09E 0xF0FF 23,
   opcodeRow 0xE0A1 0xF0FF 24, opcodeRow 0xF007 0xF0FF 25, opcodeRow 0xF00A 0xF0FF 26,
   opcodeRow 0xF015 0xF0FF 27, opcodeRow 0xF018 0xF0FF 28, opcodeRow 0xF01E 0xF0FF 29,
   opcodeRow 0xF029 0xF0FF 30, opcodeRow 0xF033 0xF0FF 31, opcodeRow 0xF055 0xF0FF 32,
   opcodeRow 0xF065 0xF0FF 33]

/-- Does the word match the row? -/
def OpcodeRow.selects (strict : Bool) (w : Word) (r : OpcodeRow) : Bool :=
  (w &&& (if strict then r.mask else r.maskLoose)) == r.pattern

/-- The variant id of the first row that the word matches. -/
def tableVariant (strict : Bool) (w : Word) : Option (BitVec 6) :=
  (opcodeTable.find? (OpcodeRow.selects strict w)).map OpcodeRow.variant

/-! ### The host's question -/

/-- The word whose lowest `nbits` bits are those of `w` and whose other bits are 0. -/
def wordOfTableBits (nbits w : Nat) : Word := BitVec.ofNat 16 (w % 2 ^ nbits)

/-- The instruction this decoder reads from the bytes of a table word laid out in memory order, under
the default `STRICT_5_9` = true (R80). -/
def decodeTableWord (nbits w : Nat) : Option Instr :=
  match decodeBytes true (bytesOfWord (wordOfTableBits nbits w)) with
  | .instr i _ => some i
  | .unknownOpcode _ => none
  | .truncated => none

end Sys2Proof
end

