-- ==== Sys2Proof/Machine/Operands.lean ====
section
/-! DEFINITION. The operand forms (30_encoding.md R72, 43_index_and_memory.md R196, 44_timers_and_keys.md
R227): how a field or a register becomes the value an instruction uses. Nothing is sign-extended. -/

namespace Sys2Proof.Machine

/-- `zext_16(addr)`. -/
def addrWord (a : Addr) : Word := a.zeroExtend 16

/-- `zext_16` of a byte. -/
def byteWord (b : Byte) : Word := b.zeroExtend 16

/-- The key conversion (R227): a byte names a key only in 0x0..0xF. -/
def keyOfByte (b : Byte) : Option Key := if 0x0F#8 < b then none else some (b.extractLsb' 0 4)

/-- The base address of a data access, all 16 bits of I (20_memory.md R67). -/
def State.indexAddr (s : State) : Nat := s.i.toNat

/-- The target of `JumpV0`: `zext_16(addr) + zext_16(V[0])` (R123). -/
def State.jumpV0Target (s : State) (a : Addr) : Word := addrWord a + byteWord (s.reg 0x0#4)

/-- The address of the font glyph for a register's value: `zext_16(V[x]) * 5` (R192). -/
def glyphAddr (b : Byte) : Word := byteWord b * 5

/-- The three decimal digits of a byte, hundreds first (R193). -/
def bcdDigits (b : Byte) : List Byte := [b / 100, (b / 10) % 10, b % 10]

end Sys2Proof.Machine
end

