-- ==== Sys2Proof/Machine/Flags.lean ====
section
/-! DEFINITION. The ALU of 42_alu_and_regfile.md: the table of R151, and the order in which a result and
its flag are written (R158, R165). The only flag is VF (10_state.md R29). -/

namespace Sys2Proof.Machine

open Sys2Proof.Config

/-- The operations of R151. -/
inductive AluOp where
  | pass
  | add8
  | or
  | and
  | xor
  | add
  | sub
  | shr
  | subn
  | shl
  | rand
deriving DecidableEq, Repr

/-- The ALU's outputs (40_execution_engine.md R114): the result, and the flag where it is written. -/
structure AluOut where
  result : Byte
  flag : Option Bool
deriving DecidableEq, Repr

/-- A flag as the byte that VF receives. -/
def flagByte (f : Bool) : Byte := if f then 0x01#8 else 0x00#8

/-- The table of R151, with `a` = V[x] (for `rand` the drawn byte) and `b` = V[y] or kk. -/
def alu (addClearsVf : Bool) (op : AluOp) (a b : Byte) : AluOut :=
  match op with
  | .pass => ⟨b, none⟩
  | .add8 => ⟨a + b, none⟩
  | .or => ⟨a ||| b, none⟩
  | .and => ⟨a &&& b, none⟩
  | .xor => ⟨a ^^^ b, none⟩
  | .add => ⟨a + b, if 0xFF < a.toNat + b.toNat then some true else if addClearsVf then some false else none⟩
  | .sub => ⟨a - b, some (b < a)⟩
  | .shr => ⟨a / 2, some (a.getLsbD 0)⟩
  | .subn => ⟨b - a, some (a < b)⟩
  | .shl => ⟨a * 2, some (a.getLsbD 7)⟩
  | .rand => ⟨a &&& b, none⟩

/-- The ALU of this machine, under its `ADD_CLEARS_VF`. -/
def State.alu (s : State) (op : AluOp) (a b : Byte) : AluOut := Machine.alu s.params.addClearsVf op a b

/-- The flag write port (R150): VF <- flag, where the operation writes one. -/
def State.writeFlag (s : State) (flag : Option Bool) : State :=
  match flag with
  | none => s
  | some f => s.setReg vf (flagByte f)

/-- Operands first, result next, flag last: the order of `Add` (R158) and of every operation without a
flag. -/
def State.aluFlagLast (s : State) (op : AluOp) (x : Reg) (b : Byte) : State :=
  (s.setReg x (s.alu op (s.reg x) b).result).writeFlag (s.alu op (s.reg x) b).flag

/-- The registers from which the result of Sub, Subn, Shr and Shl is computed (R165): after the flag
write under `sequential`, before any write under `latched`. `operand` reads the second operand. -/
def State.resultSource (s : State) (op : AluOp) (x : Reg) (operand : State → Byte) : State :=
  match s.params.vfOrder with
  | .sequential => s.writeFlag (s.alu op (s.reg x) (operand s)).flag
  | .latched => s

/-- Sub, Subn, Shr and Shl (R159 to R162) in the order of `VF_ORDER` (R165). -/
def State.aluFlagged (s : State) (op : AluOp) (x : Reg) (operand : State → Byte) : State :=
  match s.params.vfOrder with
  | .sequential =>
    let t := s.resultSource op x operand
    t.setReg x (t.alu op (t.reg x) (operand t)).result
  | .latched => s.aluFlagLast op x (operand s)

end Sys2Proof.Machine
end

