-- ==== Sys2Proof/Machine/Alu.lean ====
section
/-! DEFINITION. Immediate, register and arithmetic instructions (42_alu_and_regfile.md), over the ALU of
Flags.lean. Each takes the default pc policy. -/

namespace Sys2Proof.Machine

open Sys2Proof.Config

/-- `LoadByte{x, kk}` (R152). -/
def execLoadByte (x : Reg) (kk : Byte) (s : State) : Result := .next (s.aluFlagLast .pass x kk).endNext

/-- `AddByte{x, kk}` (R153): no flag, even when the sum carries. -/
def execAddByte (x : Reg) (kk : Byte) (s : State) : Result := .next (s.aluFlagLast .add8 x kk).endNext

/-- `Move{x, y}` (R154). -/
def execMove (x y : Reg) (s : State) : Result := .next (s.aluFlagLast .pass x (s.reg y)).endNext

/-- `Or{x, y}` (R155): VF is not reset. -/
def execOr (x y : Reg) (s : State) : Result := .next (s.aluFlagLast .or x (s.reg y)).endNext

/-- `And{x, y}` (R156). -/
def execAnd (x y : Reg) (s : State) : Result := .next (s.aluFlagLast .and x (s.reg y)).endNext

/-- `Xor{x, y}` (R157). -/
def execXor (x y : Reg) (s : State) : Result := .next (s.aluFlagLast .xor x (s.reg y)).endNext

/-- `Add{x, y}` (R158): the flag is written last under both orders. -/
def execAdd (x y : Reg) (s : State) : Result := .next (s.aluFlagLast .add x (s.reg y)).endNext

/-- `Sub{x, y}` (R159). -/
def execSub (x y : Reg) (s : State) : Result := .next (s.aluFlagged .sub x (·.reg y)).endNext

/-- `Shr{x}` (R160); the ALU takes no second operand. -/
def execShr (x : Reg) (s : State) : Result := .next (s.aluFlagged .shr x fun _ => 0x00#8).endNext

/-- Would the subtraction of `Subn` underflow, on the registers it is computed from (R161)? -/
def State.subnUnderflows (s : State) (x y : Reg) : Bool :=
  let t := s.resultSource .subn x (·.reg y)
  t.reg y < t.reg x

/-- `Subn{x, y}` (R161): under `SUBN_UNDERFLOW` = fault an underflow raises `SubnUnderflow` with the
values before the instruction (R298). -/
def execSubn (x y : Reg) (s : State) : Result :=
  if s.params.subnUnderflow = .fault ∧ s.subnUnderflows x y then
    .next (s.raise .subnUnderflow (s.reg y ++ s.reg x))
  else .next (s.aluFlagged .subn x (·.reg y)).endNext

/-- `Shl{x}` (R162); the ALU takes no second operand. -/
def execShl (x : Reg) (s : State) : Result := .next (s.aluFlagged .shl x fun _ => 0x00#8).endNext

/-- `Random{x, kk}` (R163): one draw from the random source, also when kk is 0 (R111). -/
def execRandom (x : Reg) (kk : Byte) (s : State) : Result :=
  .next (s.drawRand.setReg x (s.alu .rand s.randNow kk).result).endNext

end Sys2Proof.Machine
end

