-- ==== Sys2Proof/Machine/Control.lean ====
section
/-! DEFINITION. Control transfer instructions (41_control_flow.md). -/

namespace Sys2Proof.Machine

/-- `Jump{addr}` (R120). -/
def execJump (a : Addr) (s : State) : Result := .next (s.endCycle (addrWord a))

/-- `Call{addr}` (R121): the address of the next word is pushed; a 17th nested call faults (R283). -/
def execCall (a : Addr) (s : State) : Result :=
  if h : s.sp.val < 16 then
    .next ({ s with
      stack := s.stack.set s.sp.val (s.pc + 2) h
      sp := ⟨s.sp.val + 1, Nat.succ_lt_succ h⟩ }.endCycle (addrWord a))
  else .next (s.raise .stackOverflow (addrWord a))

/-- `Return` (R122): the entry is not erased; a return on an empty stack faults (R284). -/
def execRet (s : State) : Result :=
  if h : s.sp.val = 0 then .next (s.raise .stackUnderflow 0x0000#16)
  else
    .next ({ s with sp := ⟨s.sp.val - 1, by have := s.sp.isLt; omega⟩ }.endCycle
      (s.stack[s.sp.val - 1]'(by have := s.sp.isLt; omega)))

/-- `JumpV0{addr}` (R123). -/
def execJumpV0 (a : Addr) (s : State) : Result := .next (s.endCycle (s.jumpV0Target a))

/-- `SkipEqualByte{x, kk}` (R124). -/
def execSkipEqualByte (x : Reg) (kk : Byte) (s : State) : Result := .next (s.endSkip (s.reg x == kk))

/-- `SkipNotEqualByte{x, kk}` (R125). -/
def execSkipNotEqualByte (x : Reg) (kk : Byte) (s : State) : Result := .next (s.endSkip (s.reg x != kk))

/-- `SkipEqualReg{x, y}` (R126). -/
def execSkipEqualReg (x y : Reg) (s : State) : Result := .next (s.endSkip (s.reg x == s.reg y))

/-- `SkipNotEqualReg{x, y}` (R127). -/
def execSkipNotEqualReg (x y : Reg) (s : State) : Result := .next (s.endSkip (s.reg x != s.reg y))

end Sys2Proof.Machine
end

