-- ==== Sys2Proof/Machine/Index.lean ====
section
/-! DEFINITION. Index register and memory instructions (43_index_and_memory.md). None of them changes I as
a side effect (R196). -/

namespace Sys2Proof.Machine

/-- `LoadIndex{addr}` (R190). -/
def execLoadIndex (a : Addr) (s : State) : Result := .next { s with i := addrWord a }.endNext

/-- `AddI{x}` (R191): wraps modulo 65536, no flag. -/
def execAddI (x : Reg) (s : State) : Result := .next { s with i := s.i + byteWord (s.reg x) }.endNext

/-- `LoadSprite{x}` (R192): no check of the digit. -/
def execLoadSprite (x : Reg) (s : State) : Result := .next { s with i := glyphAddr (s.reg x) }.endNext

/-- Store bytes at I and take the default pc policy, or raise `MemoryOutOfBounds(I)` with no byte written
(20_memory.md R54). -/
def State.storeAtIndex (s : State) (bytes : List Byte) : State :=
  match Memory.writeBytes s.mem s.indexAddr bytes with
  | none => s.raise .memoryOutOfBounds s.i
  | some m => { s with mem := m }.endNext

/-- `LoadBCD{x}` (R193). -/
def execLoadBCD (x : Reg) (s : State) : Result := .next (s.storeAtIndex (bcdDigits (s.reg x)))

/-- `SaveRegisters{x}` (R194): V0 at I, up to V[x] at I + x. -/
def execSaveRegisters (x : Reg) (s : State) : Result := .next (s.storeAtIndex (s.regsUpTo x))

/-- `LoadRegisters{x}` (R195): V0 from I, up to V[x] from I + x. -/
def execLoadRegisters (x : Reg) (s : State) : Result :=
  match Memory.readBytes s.mem s.indexAddr (x.toNat + 1) with
  | none => .next (s.raise .memoryOutOfBounds s.i)
  | some bytes => .next (s.setRegsFrom 0 bytes).endNext

end Sys2Proof.Machine
end

