-- ==== Sys2Proof/Machine/Blitter.lean ====
section
/-! DEFINITION. `framebuffer_xor_blitter` (45_framebuffer_blitter.md): the cells and its two operations. -/

namespace Sys2Proof.Machine

/-- `fb[r][c]` (R250); a coordinate outside the buffer, which no rule forms, reads as 0. -/
def Screen.cell (fb : Screen) (r c : Nat) : Bool :=
  if h : r < 32 ∧ c < 64 then (fb[r]'h.1)[c]'h.2 else false

/-- `fb[r][c] <- b`. -/
def Screen.setCell (fb : Screen) (r c : Nat) (b : Bool) : Screen :=
  if h : r < 32 ∧ c < 64 then fb.set r ((fb[r]'h.1).set c b h.2) h.1 else fb

/-- The empty buffer, every cell 0 (R252). -/
def Screen.blank : Screen := Vector.replicate 32 (Vector.replicate 64 false)

/-- Buffer and `flag_out` while a sprite is drawn. -/
abbrev Blit := Screen × Bool

/-- XOR one cell, noting a collision when it was 1 (R253). -/
def blitCell (st : Blit) (r c : Nat) : Blit :=
  (st.1.setCell r c (!st.1.cell r c), st.2 || st.1.cell r c)

/-- One sprite column of a row: a clear bit leaves its cell unchanged. Bit 7 is column 0 (R254). -/
def blitColumn (bits : Byte) (x r : Nat) (st : Blit) (col : Nat) : Blit :=
  if bits.getLsbD (7 - col) then blitCell st r ((x + col) % 64) else st

/-- One sprite row, columns 0 to 7. -/
def blitRow (bits : Byte) (x r : Nat) (st : Blit) : Blit :=
  (List.range 8).foldl (blitColumn bits x r) st

/-- The sprite's rows from number `row` on. -/
def blitRows (x y : Nat) : Nat → List Byte → Blit → Blit
  | _, [], st => st
  | row, bits :: rest, st => blitRows x y (row + 1) rest (blitRow bits x ((y + row) % 32) st)

/-- `displaySprite(sprite_bytes, x, y)` (R253): the buffer after, and `flag_out`. -/
def displaySprite (bytes : List Byte) (x y : Byte) (fb : Screen) : Blit :=
  blitRows x.toNat y.toNat 0 bytes (fb, false)

/-- `clear()` (R252): every cell 0, the buffer marked dirty. -/
def State.clear (s : State) : State := { s with fb := Screen.blank, dirty := true }

/-- The blitter's `displaySprite` on this machine's buffer: `flag_out` stays at the port `collision` until the
next one (R251), `dirty` is left alone (R258). The engine writes the collision result to VF, always (R255,
R257). -/
def State.blit (s : State) (bytes : List Byte) (x y : Byte) : State :=
  { s with
    fb := (displaySprite bytes x y s.fb).1
    collision := (displaySprite bytes x y s.fb).2 }.setReg vf (flagByte (displaySprite bytes x y s.fb).2)

end Sys2Proof.Machine
end

