-- ==== Sys2Proof/Machine/Screens.lean ====
section
/-! DEFINITION. The two instructions that drive the blitter (45_framebuffer_blitter.md). -/

namespace Sys2Proof.Machine

/-- `ClearScreen` (R256): VF is not written. -/
def execClearScreen (s : State) : Result := .next s.clear.endNext

/-- `Draw{x, y, n}` (R257): the coordinates are read before VF is written; a sprite that runs past memory
raises `MemoryOutOfBounds(I)` with buffer and VF unchanged; n = 0 reads no memory and never faults. -/
def execDraw (x y : Reg) (n : Nibble) (s : State) : Result :=
  match Memory.readBytes s.mem s.indexAddr n.toNat with
  | none => .next (s.raise .memoryOutOfBounds s.i)
  | some bytes => .next (s.blit bytes (s.reg x) (s.reg y)).endNext

end Sys2Proof.Machine
end

