-- ==== Sys2Proof/Machine/TimerKey.lean ====
section
/-! DEFINITION. Timer and key instructions (44_timers_and_keys.md). The timers decrement at the end of the
cycle, after these writes (40_execution_engine.md R104). -/

namespace Sys2Proof.Machine

/-- `GetDelay{x}` (R220): DT before this cycle's decrement. -/
def execGetDelay (x : Reg) (s : State) : Result := .next (s.setReg x s.dt).endNext

/-- `SetDelay{x}` (R221): the same cycle's decrement applies to the new value. -/
def execSetDelay (x : Reg) (s : State) : Result := .next { s with dt := s.reg x }.endNext

/-- `SetSound{x}` (R222). -/
def execSetSound (x : Reg) (s : State) : Result := .next { s with st := s.reg x }.endNext

/-- `SkipKeyPressed{x}` (R223): the key number is checked before the poll (R227). -/
def execSkipKeyPressed (x : Reg) (s : State) : Result :=
  match keyOfByte (s.reg x) with
  | none => .next (s.raise .unknownKey (byteWord (s.reg x)))
  | some k => .next (s.drawKeyPoll.endSkip (s.keyDown k))

/-- `SkipKeyNotPressed{x}` (R224). -/
def execSkipKeyNotPressed (x : Reg) (s : State) : Result :=
  match keyOfByte (s.reg x) with
  | none => .next (s.raise .unknownKey (byteWord (s.reg x)))
  | some k => .next (s.drawKeyPoll.endSkip (!s.keyDown k))

/-- `WaitKeyPressed{x}` (R225): the request goes out and the engine looks at the key source at once; with
no event yet it holds inside the cycle (R117). -/
def execWaitKeyPressed (x : Reg) (s : State) : Result := .next (s.awaitKey ⟨x, s.pc⟩)

end Sys2Proof.Machine
end

