-- ==== Sys2Proof/Machine/Dispatch.lean ====
section
/-! DEFINITION. One arm per variant, "with exhaustive matching" (40_execution_engine.md R103). -/

namespace Sys2Proof.Machine

/-- Steps 5 to 8 of R101 for a decoded instruction: its effect, its pc policy, the timer step, `Done`; or
the fault it raises. -/
def exec (i : Instr) (s : State) : Host.Outcome State Fault Refusal :=
  match i with
  | .clearScreen => Sys2Proof.Machine.execClearScreen s
  | .ret => Sys2Proof.Machine.execRet s
  | .jump a => Sys2Proof.Machine.execJump a s
  | .call a => Sys2Proof.Machine.execCall a s
  | .skipEqualByte x kk => Sys2Proof.Machine.execSkipEqualByte x kk s
  | .skipNotEqualByte x kk => Sys2Proof.Machine.execSkipNotEqualByte x kk s
  | .skipEqualReg x y => Sys2Proof.Machine.execSkipEqualReg x y s
  | .loadByte x kk => Sys2Proof.Machine.execLoadByte x kk s
  | .addByte x kk => Sys2Proof.Machine.execAddByte x kk s
  | .move x y => Sys2Proof.Machine.execMove x y s
  | .or x y => Sys2Proof.Machine.execOr x y s
  | .and x y => Sys2Proof.Machine.execAnd x y s
  | .xor x y => Sys2Proof.Machine.execXor x y s
  | .add x y => Sys2Proof.Machine.execAdd x y s
  | .sub x y => Sys2Proof.Machine.execSub x y s
  | .shr x => Sys2Proof.Machine.execShr x s
  | .subn x y => Sys2Proof.Machine.execSubn x y s
  | .shl x => Sys2Proof.Machine.execShl x s
  | .skipNotEqualReg x y => Sys2Proof.Machine.execSkipNotEqualReg x y s
  | .loadIndex a => Sys2Proof.Machine.execLoadIndex a s
  | .jumpV0 a => Sys2Proof.Machine.execJumpV0 a s
  | .random x kk => Sys2Proof.Machine.execRandom x kk s
  | .draw x y n => Sys2Proof.Machine.execDraw x y n s
  | .skipKeyPressed x => Sys2Proof.Machine.execSkipKeyPressed x s
  | .skipKeyNotPressed x => Sys2Proof.Machine.execSkipKeyNotPressed x s
  | .getDelay x => Sys2Proof.Machine.execGetDelay x s
  | .waitKeyPressed x => Sys2Proof.Machine.execWaitKeyPressed x s
  | .setDelay x => Sys2Proof.Machine.execSetDelay x s
  | .setSound x => Sys2Proof.Machine.execSetSound x s
  | .addI x => Sys2Proof.Machine.execAddI x s
  | .loadSprite x => Sys2Proof.Machine.execLoadSprite x s
  | .loadBCD x => Sys2Proof.Machine.execLoadBCD x s
  | .saveRegisters x => Sys2Proof.Machine.execSaveRegisters x s
  | .loadRegisters x => Sys2Proof.Machine.execLoadRegisters x s

end Sys2Proof.Machine
end

