-- ==== Sys2Proof/Machine/Cycle.lean ====
section
/-! DEFINITION. One cycle of the engine (40_execution_engine.md R101, R106). -/

namespace Sys2Proof.Machine

/-- `MemRead16(pc)` (R9, R51): the first byte is the high byte, at any pc (R53); none where it raises
`MemoryOutOfBounds(pc)`. -/
def State.fetchWord (s : State) : Option Word :=
  match Memory.readBytes s.mem s.pc.toNat 2 with
  | some (hi :: lo :: _) => some (wordOfBytes hi lo)
  | _ => none

/-- Steps 3 to 8 of R101: fetch, decode, execute; the first check that fails is reported (R289). -/
def State.runCycle (s : State) : Result :=
  match s.fetchWord with
  | none => .next (s.raise .memoryOutOfBounds s.pc)
  | some w =>
    match decodeWord s.params.strict59 w with
    | .unknownOpcode e => .next (s.raise .decodeError e)
    | .instr i => exec i s

/-- The answer of a faulted engine: the recorded fault, and nothing else happens (R288). -/
def State.repeatFault (s : State) : State :=
  { s with resp := some (.fault s.faultCode s.faultPc s.faultInfo) }

/-- The answer `Halted`: nothing of the core changes (R107). The request was a cycle (R106), so the window for
a ROM load is over (R315). -/
def State.halt (s : State) : State := { s with resp := some .halted, loadOpen := false }

/-- One cycle request, or one more look at the key source of a cycle that a key wait keeps open (R117,
during which `isRunning` is not asked). The order of the checks is that of R289. -/
def cycle (s : State) : Result :=
  match s.status with
  | .fault => .next s.repeatFault
  | .run =>
    match s.hold with
    | some w => .next (s.awaitKey w)
    | none =>
      if s.runningNow then s.drawRunning.runCycle
      else .next s.drawRunning.halt

end Sys2Proof.Machine
end

