-- ==== Sys2Proof/Machine/Step.lean ====
section
/-! DEFINITION. The step of the machine, and the placing of a word where the next step fetches. -/

namespace Sys2Proof.Machine

/-- One step: one cycle request, or one look at the key source while a key wait holds the cycle open. -/
def step (s : State) : Host.Outcome State Fault Refusal := cycle s

/-- The address of the next fetch: pc, or the start of the program where pc admits no fetch. -/
def State.fetchPc (s : State) : Word := if s.pc.toNat ≤ 0xFFE then s.pc else 0x0200#16

/-- `s` with a table word stored where the next step fetches, high byte first, and with what the fetch
needs: an engine in RUN that is not waiting, a pc whose two bytes lie in memory, and `true` as the display
sink's next answer. It stands for the ROM load, so it closes the load port (log 12). -/
def State.withFetchWord (s : State) (nbits w : Nat) : State :=
  { s with
    pc := s.fetchPc
    mem := Memory.putAll s.mem s.fetchPc.toNat (bytesOfWord (wordOfTableBits nbits w))
    status := .run
    faultCode := .none
    faultPc := 0x0000#16
    faultInfo := 0x0000#16
    hold := none
    loadOpen := false
    running := ⟨true :: s.running.script, s.running.count⟩ }

end Sys2Proof.Machine
end

