-- ==== Sys2Proof/Machine/Formatter.lean ====
section
/-! DEFINITION. The mnemonic formatter (30_encoding.md R90), "used only for diagnostics, never for control
flow" (R91): nothing else of the model calls it. It has no string for a decode error. -/

namespace Sys2Proof.Machine

/-- One uppercase hexadecimal digit. -/
def hexDigit (d : BitVec 4) : Char :=
  if d.toNat < 10 then Char.ofNat (48 + d.toNat) else Char.ofNat (55 + d.toNat)

/-- A register: `V` and one digit. -/
def regChars (x : Reg) : List Char := ['V', hexDigit x]

/-- A nibble: `0x` and one digit. -/
def nibbleChars (n : Nibble) : List Char := ['0', 'x', hexDigit n]

/-- A byte: `0x` and two digits. -/
def byteChars (b : Byte) : List Char := ['0', 'x', hexDigit (b.extractLsb' 4 4), hexDigit (b.extractLsb' 0 4)]

/-- An address: `0x` and three digits. -/
def addrChars (a : Addr) : List Char :=
  ['0', 'x', hexDigit (a.extractLsb' 8 4), hexDigit (a.extractLsb' 4 4), hexDigit (a.extractLsb' 0 4)]

/-- The operand separator. -/
def sep : List Char := [',', ' ']

/-- The characters of a decoded instruction's mnemonic string, as the table of R90 gives them. -/
def formatChars : Instr → List Char
  | .clearScreen => ['C', 'L', 'S']
  | .ret => ['R', 'E', 'T']
  | .jump a => ['J', 'P', ' '] ++ addrChars a
  | .call a => ['C', 'A', 'L', 'L', ' '] ++ addrChars a
  | .skipEqualByte x kk => ['S', 'E', ' '] ++ regChars x ++ sep ++ byteChars kk
  | .skipNotEqualByte x kk => ['S', 'N', 'E', ' '] ++ regChars x ++ sep ++ byteChars kk
  | .skipEqualReg x y => ['S', 'E', ' '] ++ regChars x ++ sep ++ regChars y
  | .loadByte x kk => ['L', 'D', ' '] ++ regChars x ++ sep ++ byteChars kk
  | .addByte x kk => ['A', 'D', 'D', ' '] ++ regChars x ++ sep ++ byteChars kk
  | .move x y => ['L', 'D', ' '] ++ regChars x ++ sep ++ regChars y
  | .or x y => ['O', 'R', ' '] ++ regChars x ++ sep ++ regChars y
  | .and x y => ['A', 'N', 'D', ' '] ++ regChars x ++ sep ++ regChars y
  | .xor x y => ['X', 'O', 'R', ' '] ++ regChars x ++ sep ++ regChars y
  | .add x y => ['A', 'D', 'D', ' '] ++ regChars x ++ sep ++ regChars y
  | .sub x y => ['S', 'U', 'B', ' '] ++ regChars x ++ sep ++ regChars y
  | .shr x => ['S', 'H', 'R', ' '] ++ regChars x
  | .subn x y => ['S', 'U', 'B', 'N', ' '] ++ regChars x ++ sep ++ regChars y
  | .shl x => ['S', 'H', 'L', ' '] ++ regChars x
  | .skipNotEqualReg x y => ['S', 'N', 'E', ' '] ++ regChars x ++ sep ++ regChars y
  | .loadIndex a => ['L', 'D', ' ', 'I'] ++ sep ++ addrChars a
  | .jumpV0 a => ['J', 'P', ' ', 'V', '0'] ++ sep ++ addrChars a
  | .random x kk => ['R', 'N', 'D', ' '] ++ regChars x ++ sep ++ byteChars kk
  | .draw x y n => ['D', 'R', 'W', ' '] ++ regChars x ++ sep ++ regChars y ++ sep ++ nibbleChars n
  | .skipKeyPressed x => ['S', 'K', 'P', ' '] ++ regChars x
  | .skipKeyNotPressed x => ['S', 'K', 'N', 'P', ' '] ++ regChars x
  | .getDelay x => ['L', 'D', ' '] ++ regChars x ++ sep ++ ['D', 'T']
  | .waitKeyPressed x => ['L', 'D', ' '] ++ regChars x ++ sep ++ ['K']
  | .setDelay x => ['L', 'D', ' ', 'D', 'T'] ++ sep ++ regChars x
  | .setSound x => ['L', 'D', ' ', 'S', 'T'] ++ sep ++ regChars x
  | .addI x => ['A', 'D', 'D', ' ', 'I'] ++ sep ++ regChars x
  | .loadSprite x => ['L', 'D', ' ', 'F'] ++ sep ++ regChars x
  | .loadBCD x => ['L', 'D', ' ', 'B'] ++ sep ++ regChars x
  | .saveRegisters x => ['L', 'D', ' ', '[', 'I', ']'] ++ sep ++ regChars x
  | .loadRegisters x => ['L', 'D', ' '] ++ regChars x ++ sep ++ ['[', 'I', ']']

/-- The mnemonic string. -/
def format (i : Instr) : String := String.ofList (formatChars i)

end Sys2Proof.Machine
end

