-- ==== Sys2Proof/Machine/Ports.lean ====
section
/-! DEFINITION. What the host sees at the block's read-only ports (40_execution_engine.md R108,
45_framebuffer_blitter.md R259). They are views of the state. -/

namespace Sys2Proof.Machine

/-- The 3-bit code of a fault (60_exceptions.md R280). -/
def FaultCode.bits : FaultCode → BitVec 3
  | .none => 0
  | .decodeError => 1
  | .unknownKey => 2
  | .stackOverflow => 3
  | .stackUnderflow => 4
  | .memoryOutOfBounds => 5
  | .subnUnderflow => 6

/-- `status` as its bit: RUN = 0, FAULT = 1 (R30). -/
def Status.bit : Status → BitVec 1
  | .run => 0
  | .fault => 1

/-- The read-only ports. -/
structure StatusPorts where
  fbOut : Vector Bool 2048
  dirty : Bool
  stPc : Word
  stI : Word
  stSp : BitVec 5
  stDt : Byte
  stSt : Byte
  stStatus : BitVec 1
  stFaultCode : BitVec 3
  stFaultPc : Word
  stFaultInfo : Word
deriving DecidableEq, Repr

/-- `fb_out`: bit r * 64 + c is cell (r, c) (R250, D26). -/
def Screen.out (fb : Screen) : Vector Bool 2048 := Vector.ofFn fun k => fb.cell (k.val / 64) (k.val % 64)

/-- The blitter's outputs (45_framebuffer_blitter.md R251). `fb_out` and `dirty` leave the block as well (R108);
`collision` goes to the engine, and to nothing outside (R115). -/
structure BlitterPorts where
  collision : Bool
  fbOut : Vector Bool 2048
  dirty : Bool
deriving DecidableEq, Repr

/-- The blitter's outputs in a state. -/
def State.blitterPorts (s : State) : BlitterPorts where
  collision := s.collision
  fbOut := s.fb.out
  dirty := s.dirty

/-- The ports of a state. -/
def State.ports (s : State) : StatusPorts where
  fbOut := s.fb.out
  dirty := s.dirty
  stPc := s.pc
  stI := s.i
  stSp := BitVec.ofNat 5 s.sp.val
  stDt := s.dt
  stSt := s.st
  stStatus := s.status.bit
  stFaultCode := s.faultCode.bits
  stFaultPc := s.faultPc
  stFaultInfo := s.faultInfo

end Sys2Proof.Machine
end

