-- ==== Sys2Proof/Safety.lean ====
section
/-! DEFINITION. The terms in which claims about the machine are made: the parts of the state and frames
over them, how a cycle ends, the invariant of a well-behaved machine, and what a safe run is. -/

namespace Sys2Proof.Machine

open Sys2Proof.Config

/-! ### Frames -/

/-- The parts of the state. -/
inductive Part where
  /-- V0..VF. -/
  | regs
  /-- I. -/
  | index
  | pc
  /-- `sp` and the 16 entries. -/
  | stack
  /-- DT. -/
  | delay
  /-- ST. -/
  | sound
  | memory
  /-- The 2048 cells. -/
  | screen
  | dirty
  /-- The blitter's `collision` port. -/
  | collision
  /-- `status`, `fault_code`, `fault_pc`, `fault_info`. -/
  | record
  | hold
  | resp
  | loadPort
  | params
  | running
  | keyPolls
  | keyWaits
  | random
deriving DecidableEq, Repr

/-- The part is the same in both states. Memory is compared byte by byte. -/
def Unchanged (s t : State) : Part → Prop
  | .regs => ∀ r, t.reg r = s.reg r
  | .index => t.i = s.i
  | .pc => t.pc = s.pc
  | .stack => t.sp = s.sp ∧ t.stack = s.stack
  | .delay => t.dt = s.dt
  | .sound => t.st = s.st
  | .memory => ∀ a, Memory.read t.mem a = Memory.read s.mem a
  | .screen => t.fb = s.fb
  | .dirty => t.dirty = s.dirty
  | .collision => t.collision = s.collision
  | .record =>
    t.status = s.status ∧ t.faultCode = s.faultCode ∧ t.faultPc = s.faultPc ∧ t.faultInfo = s.faultInfo
  | .hold => t.hold = s.hold
  | .resp => t.resp = s.resp
  | .loadPort => t.loadOpen = s.loadOpen
  | .params => t.params = s.params
  | .running => t.running = s.running
  | .keyPolls => t.keyPoll = s.keyPoll
  | .keyWaits => t.keyWait = s.keyWait
  | .random => t.rng = s.rng

/-- Every part outside the list is the same in both states. -/
def OnlyChanges (parts : List Part) (s t : State) : Prop := ∀ p, p ∉ parts → Unchanged s t p

/-- "each decremented by exactly 1 ... when nonzero, clamped at 0" (R104). -/
def TimersFall (s t : State) : Prop := t.dt.toNat = s.dt.toNat - 1 ∧ t.st.toNat = s.st.toNat - 1

/-- What every cycle that answers `Done` may change besides its instruction's own destinations. -/
def doneParts : List Part := [.pc, .delay, .sound, .resp, .loadPort]

/-- `t` is `s` after a completed cycle with pc at `nextPc`: the timers fell, the answer is `Done`, and
besides that only the named parts changed. -/
def CycleEnds (nextPc : Word) (changed : List Part) (s t : State) : Prop :=
  t.pc = nextPc ∧ TimersFall s t ∧ t.resp = some .done ∧ t.loadOpen = false ∧
    OnlyChanges (doneParts ++ changed) s t

/-- `t` is `s` after fault entry (R286, R287): the record is written and answered, and nothing else of the
machine changed. This is the spec's own decision D11; that it is a next state is the model's choice (log 9). -/
def FaultEntered (code : FaultCode) (info : Word) (s t : State) : Prop :=
  t.status = .fault ∧ t.faultCode = code ∧ t.faultPc = s.pc ∧ t.faultInfo = info ∧
    t.resp = some (.fault code s.pc info) ∧ OnlyChanges [.record, .resp, .loadPort] s t

/-- Both values of `STRICT_5_9` decode the word to the instruction. -/
def Encodes (w : Word) (i : Instr) : Prop := ∀ strict, decodeWord strict w = .instr i

/-- An engine that takes the next cycle request: no recorded fault, no open key wait, and the display sink
answers true. -/
def Ready (s : State) : Prop := s.status = .run ∧ s.hold = none ∧ s.runningNow = true

/-- Run a list of instructions one after the other, each as if it had been fetched. -/
def execAll : List Instr → State → Option State
  | [], s => some s
  | i :: is, s =>
    match exec i s with
    | .next t => execAll is t
    | .fault _ => none
    | .refused _ => none

/-! ### Sprites -/

/-- A sprite of `rows` bytes at `base`, drawn at (cx, cy), has a set bit on cell (r, c) (R253, R254). -/
def SpriteCovers (m : Memory) (base rows : Nat) (cx cy : Byte) (r c : Nat) : Prop :=
  ∃ row < rows, ∃ col < 8, (Memory.read m (base + row)).getLsbD (7 - col) = true ∧
    (cy.toNat + row) % 32 = r ∧ (cx.toNat + col) % 64 = c

/-! ### The invariant -/

/-- What holds of every state that a machine reaches from reset by steps, loads and resets. -/
structure State.Inv (s : State) : Prop where
  /-- Memory is in its canonical form and lies inside 0x000..0xFFF. -/
  memory : Memory.wf s.mem
  /-- R25, R30: pc is in 0x0000..0x10FE. -/
  pcRange : s.pc.toNat ≤ 0x10FE
  /-- Every stack entry is 0 or the address after a fetched word. -/
  stackRange : ∀ k (h : k < 16), (s.stack[k]'h).toNat ≤ 0x1000
  /-- R37, R287: in RUN the fault record is that of reset. -/
  runRecord : s.status = .run → s.faultCode = .none ∧ s.faultPc = 0x0000#16 ∧ s.faultInfo = 0x0000#16
  /-- R286, R287: in FAULT the record is of the cycle at pc, it is the answer, and no key wait is open. -/
  faultRecord : s.status = .fault → s.faultCode ≠ .none ∧ s.faultPc = s.pc ∧ s.hold = none ∧
    s.resp = some (.fault s.faultCode s.faultPc s.faultInfo)
  /-- R36, R117: a key wait is inside one cycle in RUN, at the word's pc. -/
  holdOpen : ∀ w, s.hold = some w → s.status = .run ∧ w.pc = s.pc ∧ s.pc.toNat ≤ 0xFFE ∧ s.resp = none
  /-- R298: code 6 is never raised under `wrap`. -/
  subnRecord : s.faultCode = .subnUnderflow → s.params.subnUnderflow = .fault
  /-- R314, R315: while the load port is open no cycle has run and the machine is in its reset state. -/
  boot : s.loadOpen = true → s = s.resetPort

/-! ### Safe runs -/

/-- `t` comes from `s` by some number of steps. -/
inductive Reaches : State → State → Prop where
  | refl (s : State) : Reaches s s
  | tail {s t u : State} (h : Reaches s t) (h' : step t = .next u) : Reaches s u

/-- A run is safe when no cycle of it ever faults (60_exceptions.md R288: nothing runs after a fault). -/
def SafeRun (s : State) : Prop := ∀ t, Reaches s t → t.status = .run

end Sys2Proof.Machine
end

