-- ==== Sys2Proof/Certificates/Slice0/Obligations.lean ====
section
/-! DEFINITION. The statements for the provers, from the numbered rules of spec/. Frames are stated with
`OnlyChanges`: every part of the state that a statement does not name is the same after as before, memory
byte by byte. `CycleEnds p changed s t` says that the cycle completed with pc at `p`. `Memory.wf`, a premise
where a store is read back, is the canonical form that `EveryStepKeepsTheInvariant` says every step keeps. Where a docstring names a decision
D<n> or general knowledge G<n>, that clause is the spec's own choice or inference and not its source's (log 21). -/

open Sys2Proof Sys2Proof.Machine Sys2Proof.Config

/-! ### The decoder -/

/-- For every instruction, under either `STRICT_5_9`, decoding its encoded word, or its bytes followed by
anything, gives it back with every operand (30_encoding.md sections 1 to 3; patterns partly G1). -/
def Obligations.DecodingAnEncodedInstructionGivesItBack : Prop :=
  ∀ (strict : Bool) (i : Instr) (rest : List Byte),
    decodeWord strict (encode i) = .instr i ∧
    decodeBytes strict (encodeBytes i ++ rest) = .instr i rest

/-- The other direction: encoding what a word decodes to gives the word back, up to the bits the variant
does not carry (R75, R80, R81): the top nibble of a jump, the y bits of a shift, and the n bits of a register
skip that `STRICT_5_9` = false ignores. Which word of several the encoder picks is the model's choice
(log 19). -/
def Obligations.EncodingADecodedWordGivesTheWordBack : Prop :=
  ∀ (strict : Bool) (w : Word) (i : Instr), decodeWord strict w = .instr i →
    encode i = match i with
      | .jump _ => 0x1000#16 ||| (w &&& 0x0FFF#16)
      | .shr _ => w &&& 0xFF0F#16
      | .shl _ => w &&& 0xFF0F#16
      | .skipEqualReg _ _ => w &&& 0xFFF0#16
      | .skipNotEqualReg _ _ => w &&& 0xFFF0#16
      | _ => w

/-- Words written out from the patterns of R75 to R83 (partly G1), one or more for every top nibble, decode to the
instructions they stand for. -/
def Obligations.WordsOfTheSpecDecodeAsWritten : Prop :=
  ∀ strict : Bool,
    [decodeWord strict 0x00E0, decodeWord strict 0x00EE, decodeWord strict 0x0123, decodeWord strict 0x1ABC,
      decodeWord strict 0x2345, decodeWord strict 0x3A7F, decodeWord strict 0x4A7F, decodeWord strict 0x5120,
      decodeWord strict 0x6FFF, decodeWord strict 0x7000, decodeWord strict 0x8126, decodeWord strict 0x812E,
      decodeWord strict 0x9120, decodeWord strict 0xA000, decodeWord strict 0xB123, decodeWord strict 0xC0FF,
      decodeWord strict 0xD015, decodeWord strict 0xE1A1, decodeWord strict 0xF133, decodeWord strict 0xF165] =
    [.instr .clearScreen, .instr .ret, .instr (.jump 0x123), .instr (.jump 0xABC), .instr (.call 0x345),
      .instr (.skipEqualByte 0xA 0x7F), .instr (.skipNotEqualByte 0xA 0x7F), .instr (.skipEqualReg 1 2),
      .instr (.loadByte 0xF 0xFF), .instr (.addByte 0 0), .instr (.shr 1), .instr (.shl 1),
      .instr (.skipNotEqualReg 1 2), .instr (.loadIndex 0), .instr (.jumpV0 0x123), .instr (.random 0 0xFF),
      .instr (.draw 0 1 5), .instr (.skipKeyNotPressed 1), .instr (.loadBCD 1), .instr (.loadRegisters 1)]

/-- R75: family 0 is two exact words and, for every other value, a jump to its low 12 bits. -/
def Obligations.FamilyZeroIsClearReturnOrJump : Prop :=
  ∀ (strict : Bool) (a : Addr),
    decodeWord strict (0x0#4 ++ a) =
      if (0x0#4 ++ a : Word) = 0x00E0#16 then .instr .clearScreen
      else if (0x0#4 ++ a : Word) = 0x00EE#16 then .instr .ret
      else .instr (.jump a)

/-- R80 (D14): a word 5xyN or 9xyN with N ≠ 0 fails decode when `STRICT_5_9` is true, and decodes as if N were 0
when it is false. -/
def Obligations.Strict59DecidesRegisterSkipsWithNonzeroN : Prop :=
  ∀ (x y : Reg) (n : Nibble), n ≠ 0x0#4 →
    decodeWord true (0x5#4 ++ x ++ y ++ n) = .unknownOpcode (0x5#4 ++ x ++ y ++ n) ∧
    decodeWord true (0x9#4 ++ x ++ y ++ n) = .unknownOpcode (0x9#4 ++ x ++ y ++ n) ∧
    decodeWord false (0x5#4 ++ x ++ y ++ n) = decodeWord false (0x5#4 ++ x ++ y ++ 0x0#4) ∧
    decodeWord false (0x9#4 ++ x ++ y ++ n) = decodeWord false (0x9#4 ++ x ++ y ++ 0x0#4)

/-- R73, R84: a decode error carries the word, and exactly the words of the four sets of R84 fail (the sets
are the spec's inference from R75 to R83). -/
def Obligations.DecodeFailsExactlyOnTheListedWords : Prop :=
  ∀ (strict : Bool) (w e : Word), decodeWord strict w = .unknownOpcode e ↔
    e = w ∧
    ((fieldOp w = 0x8#4 ∧ (fieldN w) ∈ [0x8#4, 0x9#4, 0xA#4, 0xB#4, 0xC#4, 0xD#4, 0xF#4]) ∨
      (fieldOp w = 0xE#4 ∧ (fieldKk w) ∉ [0x9E#8, 0xA1#8]) ∨
      (fieldOp w = 0xF#4 ∧ (fieldKk w) ∉ [0x07#8, 0x0A#8, 0x15#8, 0x18#8, 0x1E#8, 0x29#8, 0x33#8, 0x55#8, 0x65#8]) ∨
      (strict = true ∧ (fieldOp w = 0x5#4 ∨ fieldOp w = 0x9#4) ∧ fieldN w ≠ 0x0#4))

/-- R85, R86 (D1, D15): the decoder's outputs: `valid` exactly when the word decodes, `variant` the id of the variant
and below 34, the fields driven from their fixed positions, kk = y ++ n and addr = x ++ y ++ n,
`err_word` = word. That `variant` is absent when `valid` is 0 is the model's choice (log 20). -/
def Obligations.DecoderPortsShowTheDecoding : Prop :=
  ∀ (strict : Bool) (w : Word),
    (decoderPorts strict w).wf = true ∧
    (∀ i, decodeWord strict w = .instr i →
      (decoderPorts strict w).valid = true ∧ (decoderPorts strict w).variant = some i.variantId) ∧
    (∀ e, decodeWord strict w = .unknownOpcode e → (decoderPorts strict w).valid = false) ∧
    ((decoderPorts strict w).fX ++ (decoderPorts strict w).fKk : BitVec 12) = w.extractLsb' 0 12 ∧
    (decoderPorts strict w).errWord = w

/-- 30_encoding.md section 7 and spec/opcode_table.json: the decoder, written as the dispatch of R74, and the
opcode table, read as masks and patterns in order, select the same variant for every word. -/
def Obligations.DecoderAgreesWithTheOpcodeTable : Prop :=
  ∀ (strict : Bool) (w : Word), (decodeWord strict w).variantId? = tableVariant strict w

/-- 30_encoding.md section 6: an instruction can be read back from its mnemonic string, since no two
instructions share one. (The strings are the spec's own decision D16.) -/
def Obligations.MnemonicStringsDetermineTheInstruction : Prop :=
  ∀ i j : Instr, format i = format j → i = j

/-! ### The cycle -/

/-- A STEP RUNS THE DECODED INSTRUCTION (40_execution_engine.md R101): a ready engine whose two bytes at pc,
the first one high, decode to `i` does what `exec i` does; the only thing the step adds is the `isRunning`
query, which changes no part of the state but the environment's next answer. -/
def Obligations.StepRunsTheDecodedInstruction : Prop :=
  ∀ (s : State) (i : Instr), Ready s → s.pc.toNat ≤ 0xFFE →
    decodeWord s.params.strict59
      (Memory.read s.mem s.pc.toNat ++ Memory.read s.mem (s.pc.toNat + 1)) = .instr i →
    step s = exec i s.drawRunning ∧ OnlyChanges [.running] s s.drawRunning

/-- 40_execution_engine.md sections 1 and 3: no variant is left unhandled (R103), so every step answers a next
state, and it leaves the parameters of R6 alone. Three things in this are the model's choices: a fault is a
next state (log 9), a held engine, which R117 calls an agent with no step, repeats its state in a step
(log 16), and the parameters are data in the state (log 6). -/
def Obligations.EveryStepAnswersANextState : Prop :=
  ∀ s : State, ∃ t, step s = .next t ∧ t.params = s.params

/-- 60_exceptions.md section 1 (R281): a fetched word that decodes to no variant raises `DecodeError` with the word
as `fault_info`. That the record is written and answered with the cycle's pc and that nothing else changes (R105,
R286, R287) is the spec's own decision D11; that the fault is a next state is the model's choice (log 9). -/
def Obligations.UndecodableWordRaisesDecodeError : Prop :=
  ∀ (s : State) (w e : Word), Ready s → s.pc.toNat ≤ 0xFFE →
    w = Memory.read s.mem s.pc.toNat ++ Memory.read s.mem (s.pc.toNat + 1) →
    decodeWord s.params.strict59 w = .unknownOpcode e →
    ∃ t, step s = .next t ∧ FaultEntered .decodeError w s.drawRunning t

/-- 41_control_flow.md (R130) and 60_exceptions.md section 1: a pc outside 0x000..0xFFE is no fault until the next
fetch, which raises `MemoryOutOfBounds(pc)`: the spec's own decisions D8 and D9. What a fault's entry writes and
answers, and that nothing else changes (R286, R287), is the spec's own decision D11; that the fault is a next state
is the model's choice (log 9). -/
def Obligations.FetchOutsideMemoryFaults : Prop :=
  ∀ s : State, Ready s → 0xFFE < s.pc.toNat →
    ∃ t, step s = .next t ∧ FaultEntered .memoryOutOfBounds s.pc s.drawRunning t

/-- 40_execution_engine.md section 1 (R107, D32): when `isRunning()` answers false the cycle answers `Halted`
and nothing else changes: no fetch, no timer (D31), no pc, no fault. As the request was a cycle, the load port is
closed after it (70_reset_and_hazards.md section 1, R315; the port's field is the model's, log 11). -/
def Obligations.HaltedCycleChangesNothing : Prop :=
  ∀ s : State, s.status = .run → s.hold = none → s.runningNow = false →
    ∃ t, step s = .next t ∧ t.resp = some .halted ∧ t.loadOpen = false ∧
      OnlyChanges [.resp, .loadPort, .running] s t

/-- 60_exceptions.md section 1 (R288, D11): a fault is sticky: any number of cycle requests to a faulted
engine repeat the recorded fault and change nothing, not even asking `isRunning`. -/
def Obligations.FaultRepeatsForever : Prop :=
  ∀ (s : State) (n : Nat), s.status = .fault →
    ∃ t, Host.Core.run Sys2Proof.core (n + 1) s = .next t ∧
      t.resp = some (.fault s.faultCode s.faultPc s.faultInfo) ∧ OnlyChanges [.resp] s t

/-- 60_exceptions.md section 1 (R286, D11): whatever instruction faults, the cycle commits none of its
writes: only the record and the answer change (and the `isRunning` answer is consumed); no key or random
draw is consumed. -/
def Obligations.FaultingCycleCommitsNothing : Prop :=
  ∀ s t : State, s.status = .run → step s = .next t → t.status = .fault →
    t.faultPc = s.pc ∧ t.resp = some (.fault t.faultCode s.pc t.faultInfo) ∧
    OnlyChanges [.record, .resp, .loadPort, .running] s t

/-- 60_exceptions.md section 1 (R280, D12): what the record of a fault says about the cycle that raised it. -/
def Obligations.FaultRecordMatchesItsCause : Prop :=
  ∀ s t : State, s.status = .run → step s = .next t → t.status = .fault →
    match t.faultCode with
    | .none => False
    | .decodeError => s.fetchWord = some t.faultInfo ∧
        decodeWord s.params.strict59 t.faultInfo = .unknownOpcode t.faultInfo
    | .unknownKey => 0x0F < t.faultInfo.toNat ∧ t.faultInfo.toNat ≤ 0xFF
    | .stackOverflow => s.sp = 16 ∧ t.faultInfo.toNat ≤ 0xFFF
    | .stackUnderflow => s.sp = 0 ∧ t.faultInfo = 0x0000#16
    | .memoryOutOfBounds => (t.faultInfo = s.pc ∧ 0xFFE < s.pc.toNat) ∨ (t.faultInfo = s.i ∧ 0xFF0 < s.i.toNat)
    | .subnUnderflow => s.params.subnUnderflow = .fault

/-- R104: a cycle that answers `Done` has decremented each timer by exactly 1 when nonzero, whatever the
instruction (a timer that the instruction itself sets is decremented from the new value); a cycle that
does not answer `Done` has not touched the timers (D31). -/
def Obligations.TimersFallOncePerCompletedCycle : Prop :=
  ∀ (i : Instr) (s t : State), exec i s = .next t →
    (t.resp = some .done →
      t.dt.toNat = (match i with | .setDelay x => s.reg x | _ => s.dt).toNat - 1 ∧
      t.st.toNat = (match i with | .setSound x => s.reg x | _ => s.st).toNat - 1) ∧
    (t.resp ≠ some .done → t.dt = s.dt ∧ t.st = s.st)

/-! ### Invariants, reset, load -/

/-- The state after reset meets the invariant. -/
def Obligations.ResetMeetsTheInvariant : Prop := State.reset.Inv

/-- From every state that meets the invariant, every step leads to one that does: memory canonical and inside
its 4096 bytes, pc in 0x0000..0x10FE (R25, R30), return addresses at most 0x1000, the fault record that of
reset in RUN and of the cycle at pc in FAULT, a key wait only inside a cycle in RUN, code 6 only where the
parameter allows it. (The clauses on `resp` and `loadOpen` are about the model's own fields, log 10 and
log 11.) -/
def Obligations.EveryStepKeepsTheInvariant : Prop :=
  ∀ s t : State, s.Inv → step s = .next t → t.Inv

/-- The host's two ports keep the invariant: the reset port from any state at all, the ROM load from any state
that meets it. -/
def Obligations.ResetAndLoadKeepTheInvariant : Prop :=
  (∀ s : State, s.resetPort.Inv) ∧
  (∀ (s t : State) (rom : List Byte), s.Inv → s.loadRom rom = .ok t → t.Inv)

/-- 70_reset_and_hazards.md section 1 (R310 to R312) and 10_state.md section 9 (R37): from any state, the
reset port gives every register its reset value, clears the fault record and a key wait, and leaves `FONT`
at 0x000..0x04F and 0x00 everywhere else. The zeros of D2 to D6 are the spec's own decisions (log 8); the
last clause says that `State.reset` is such a state, with the default `FONT` (log 7). That the blitter's `collision`
port is 0 after reset is the model's choice (log 17). -/
def Obligations.ResetPutsEveryPartIntoItsResetValue : Prop :=
  (∀ s : State,
    (∀ r, s.resetPort.reg r = 0x00#8) ∧ s.resetPort.i = 0x0000#16 ∧ s.resetPort.pc = 0x0200#16 ∧
    s.resetPort.sp = 0 ∧ (∀ k (h : k < 16), s.resetPort.stack[k]'h = 0x0000#16) ∧
    s.resetPort.dt = 0x00#8 ∧ s.resetPort.st = 0x00#8 ∧
    (∀ a (h : a < 80), Memory.read s.resetPort.mem a = s.params.font[a]'h) ∧
    (∀ a, 80 ≤ a → Memory.read s.resetPort.mem a = 0x00#8) ∧
    (∀ r c, s.resetPort.fb.cell r c = false) ∧ s.resetPort.dirty = false ∧ s.resetPort.collision = false ∧
    s.resetPort.status = .run ∧ s.resetPort.faultCode = .none ∧ s.resetPort.faultPc = 0x0000#16 ∧
    s.resetPort.faultInfo = 0x0000#16 ∧ s.resetPort.hold = none) ∧
  State.reset.resetPort = State.reset ∧ State.reset.params = defaultParams

/-- 70_reset_and_hazards.md section 1 (R313 to R315, D30): in the boot window a ROM of at most 3584 bytes is
copied verbatim from 0x200 on and nothing else changes; a longer one is refused with no byte copied; outside
the window a load has no meaning, and any cycle, a halted one too, ends the window. The window is the model's
field (log 11). -/
def Obligations.RomLoadCopiesTheImageOrRefuses : Prop :=
  ∀ (s : State) (rom : List Byte),
    (s.loadOpen = true → Memory.wf s.mem → rom.length ≤ 3584 → ∃ t, s.loadRom rom = .ok t ∧
      (∀ a, Memory.read t.mem a =
        if 0x200 ≤ a ∧ a < 0x200 + rom.length then rom.getD (a - 0x200) 0x00#8 else Memory.read s.mem a) ∧
      OnlyChanges [.memory, .loadPort] s t) ∧
    (s.loadOpen = true → 3584 < rom.length → s.loadRom rom = .tooLarge s) ∧
    (s.loadOpen = false → s.loadRom rom = .noMeaning) ∧
    (∀ t, s.status = .run → step s = .next t → t.loadRom rom = .noMeaning)

/-! ### Control transfer -/

/-- R120: `Jump` sets pc to its address, zero-extended; nothing else but the timers changes. Its words are
1nnn (G1), and 0nnn apart from 00E0 and 00EE. -/
def Obligations.JumpSetsPcToItsAddress : Prop :=
  ∀ (a : Addr) (s : State),
    Encodes (0x1#4 ++ a) (.jump a) ∧
    ((0x0#4 ++ a : Word) ≠ 0x00E0#16 → (0x0#4 ++ a : Word) ≠ 0x00EE#16 → Encodes (0x0#4 ++ a) (.jump a)) ∧
    ∃ t, exec (.jump a) s = .next t ∧ CycleEnds (a.zeroExtend 16) [] s t

/-- 41_control_flow.md, Call (R121, pattern G1): `Call` pushes pc + 2 and goes to its address when fewer than 16
calls are nested, and raises `StackOverflow` with the target at 16. The push order (R26) is the spec's own decision
D13. What a fault's entry writes and answers, and that nothing else changes (R286, R287), is the spec's own
decision D11; that the fault is a next state is the model's choice (log 9). -/
def Obligations.CallPushesTheNextAddressOrOverflows : Prop :=
  ∀ (a : Addr) (s : State),
    Encodes (0x2#4 ++ a) (.call a) ∧
    (∀ h : s.sp.val < 16, ∃ t, exec (.call a) s = .next t ∧ CycleEnds (a.zeroExtend 16) [.stack] s t ∧
      t.sp.val = s.sp.val + 1 ∧ t.stack[s.sp.val]'h = s.pc + 2 ∧
      ∀ k (hk : k < 16), k ≠ s.sp.val → t.stack[k]'hk = s.stack[k]'hk) ∧
    (s.sp.val = 16 → ∃ t, exec (.call a) s = .next t ∧
      FaultEntered .stackOverflow (a.zeroExtend 16) s t)

/-- 41_control_flow.md, Return (R122): `Return` takes the newest entry as pc and does not erase it, and raises
`StackUnderflow` on an empty stack. The pop order (10_state.md section 3, R26) is the spec's own decision D13. What
a fault's entry writes and answers, and that nothing else changes (R286, R287), is the spec's own decision D11;
that the fault is a next state is the model's choice (log 9). -/
def Obligations.ReturnPopsTheNewestEntryOrUnderflows : Prop :=
  ∀ s : State,
    Encodes 0x00EE#16 .ret ∧
    (∀ k (h : k < 16), s.sp.val = k + 1 → ∃ t, exec .ret s = .next t ∧
      CycleEnds (s.stack[k]'h) [.stack] s t ∧ t.sp.val = k ∧ t.stack = s.stack) ∧
    (s.sp.val = 0 → ∃ t, exec .ret s = .next t ∧ FaultEntered .stackUnderflow 0x0000#16 s t)

/-- 41_control_flow.md R122 corner case, 10_state.md section 3 (D13): any number of nested calls that fit the stack,
then as many returns, end at the instruction following the first call with the stack pointer where it was. -/
def Obligations.NestedCallsReturnToTheFirstCaller : Prop :=
  ∀ (a : Addr) (as : List Addr) (s : State), s.sp.val + as.length < 16 →
    ∃ t, execAll ((a :: as).map Instr.call ++ List.replicate (as.length + 1) .ret) s = some t ∧
      t.pc = s.pc + 2 ∧ t.sp = s.sp ∧
      (∀ k (h : k < 16), k < s.sp.val → t.stack[k]'h = s.stack[k]'h) ∧ ∀ r, t.reg r = s.reg r

/-- R123 (G1, G5, D22): `JumpV0` sets pc to the exact sum of its address and V0, not wrapped to 12 bits. -/
def Obligations.JumpV0AddsV0ToItsAddress : Prop :=
  ∀ (a : Addr) (s : State),
    Encodes (0xB#4 ++ a) (.jumpV0 a) ∧
    ∃ t, exec (.jumpV0 a) s = .next t ∧ t.pc.toNat = a.toNat + (s.reg 0x0#4).toNat ∧
      CycleEnds t.pc [] s t

/-- R124, R125 (G1, G7): the immediate skips go to pc + 4 when V[x] is equal to kk, or differs from it, and else to
pc + 2. -/
def Obligations.ByteSkipsCompareVxWithKk : Prop :=
  ∀ (x : Reg) (kk : Byte) (s : State),
    Encodes (0x3#4 ++ x ++ kk) (.skipEqualByte x kk) ∧
    Encodes (0x4#4 ++ x ++ kk) (.skipNotEqualByte x kk) ∧
    (∃ t, exec (.skipEqualByte x kk) s = .next t ∧
      CycleEnds (if s.reg x = kk then s.pc + 4 else s.pc + 2) [] s t) ∧
    (∃ t, exec (.skipNotEqualByte x kk) s = .next t ∧
      CycleEnds (if s.reg x = kk then s.pc + 2 else s.pc + 4) [] s t)

/-- R126, R127 (G1, G7, D14): the register skips go to pc + 4 when V[x] and V[y] are equal, or differ, and else to
pc + 2; their words have n = 0, and with `STRICT_5_9` a nonzero n fails decode. -/
def Obligations.RegisterSkipsCompareVxWithVy : Prop :=
  ∀ (x y : Reg) (s : State),
    Encodes (0x5#4 ++ x ++ y ++ 0x0#4) (.skipEqualReg x y) ∧
    Encodes (0x9#4 ++ x ++ y ++ 0x0#4) (.skipNotEqualReg x y) ∧
    (∀ n : Nibble, n ≠ 0x0#4 → ∀ i,
      decodeWord true (0x5#4 ++ x ++ y ++ n) ≠ .instr i ∧
      decodeWord true (0x9#4 ++ x ++ y ++ n) ≠ .instr i) ∧
    (∃ t, exec (.skipEqualReg x y) s = .next t ∧
      CycleEnds (if s.reg x = s.reg y then s.pc + 4 else s.pc + 2) [] s t) ∧
    (∃ t, exec (.skipNotEqualReg x y) s = .next t ∧
      CycleEnds (if s.reg x = s.reg y then s.pc + 2 else s.pc + 4) [] s t)

/-! ### ALU -/

/-- R152, R153, R154 (G1, G3): `LoadByte`, `AddByte` and `Move` write V[x] and no other register; VF is written only
as the destination, even when the sum carries. -/
def Obligations.LoadAddByteAndMoveWriteVxOnly : Prop :=
  ∀ (x y : Reg) (kk : Byte) (s : State),
    Encodes (0x6#4 ++ x ++ kk) (.loadByte x kk) ∧ Encodes (0x7#4 ++ x ++ kk) (.addByte x kk) ∧
    Encodes (0x8#4 ++ x ++ y ++ 0x0#4) (.move x y) ∧
    (∃ t, exec (.loadByte x kk) s = .next t ∧ CycleEnds (s.pc + 2) [.regs] s t ∧
      ∀ r, t.reg r = if r = x then kk else s.reg r) ∧
    (∃ t, exec (.addByte x kk) s = .next t ∧ CycleEnds (s.pc + 2) [.regs] s t ∧
      (t.reg x).toNat = ((s.reg x).toNat + kk.toNat) % 256 ∧ ∀ r, r ≠ x → t.reg r = s.reg r) ∧
    (∃ t, exec (.move x y) s = .next t ∧ CycleEnds (s.pc + 2) [.regs] s t ∧
      ∀ r, t.reg r = if r = x then s.reg y else s.reg r)

/-- R155, R156, R157 (G1, G3): `Or`, `And` and `Xor` write V[x] bit by bit and no other register; VF is not reset. -/
def Obligations.BitwiseOpsWriteVxOnly : Prop :=
  ∀ (x y : Reg) (s : State),
    Encodes (0x8#4 ++ x ++ y ++ 0x1#4) (.or x y) ∧ Encodes (0x8#4 ++ x ++ y ++ 0x2#4) (.and x y) ∧
    Encodes (0x8#4 ++ x ++ y ++ 0x3#4) (.xor x y) ∧
    (∃ t, exec (.or x y) s = .next t ∧ CycleEnds (s.pc + 2) [.regs] s t ∧
      (∀ k, (t.reg x).getLsbD k = ((s.reg x).getLsbD k || (s.reg y).getLsbD k)) ∧
      ∀ r, r ≠ x → t.reg r = s.reg r) ∧
    (∃ t, exec (.and x y) s = .next t ∧ CycleEnds (s.pc + 2) [.regs] s t ∧
      (∀ k, (t.reg x).getLsbD k = ((s.reg x).getLsbD k && (s.reg y).getLsbD k)) ∧
      ∀ r, r ≠ x → t.reg r = s.reg r) ∧
    (∃ t, exec (.xor x y) s = .next t ∧ CycleEnds (s.pc + 2) [.regs] s t ∧
      (∀ k, (t.reg x).getLsbD k = ((s.reg x).getLsbD k ^^ (s.reg y).getLsbD k)) ∧
      ∀ r, r ≠ x → t.reg r = s.reg r)

/-- R158 (`ADD_CLEARS_VF` is D17): `Add` writes the low byte of the sum to V[x] and then, last, the flag: VF is 1
on carry; without a carry VF is left as it is (or as the result, when x = 0xF), or cleared under `ADD_CLEARS_VF`. -/
def Obligations.AddWritesSumAndCarry : Prop :=
  ∀ (x y : Reg) (s : State),
    Encodes (0x8#4 ++ x ++ y ++ 0x4#4) (.add x y) ∧
    ∃ t, exec (.add x y) s = .next t ∧ CycleEnds (s.pc + 2) [.regs] s t ∧
      ∀ r, t.reg r =
        if r = vf ∧ 0xFF < (s.reg x).toNat + (s.reg y).toNat then 0x01#8
        else if r = vf ∧ s.params.addClearsVf = true then 0x00#8
        else if r = x then BitVec.ofNat 8 ((s.reg x).toNat + (s.reg y).toNat)
        else s.reg r

/-- 42_alu_and_regfile.md section 4 (R159): `Sub`. The flag is 1 if V[x] > V[y] strictly, on the values before.
`sequential`: VF receives the flag first and the difference is taken of the registers as they then are. `latched`:
the difference of the values before, the flag last. The parameter `VF_ORDER` (R165) is the spec's own decision D19. -/
def Obligations.SubWritesDifferenceAndNotBorrow : Prop :=
  ∀ (x y : Reg) (s : State),
    Encodes (0x8#4 ++ x ++ y ++ 0x5#4) (.sub x y) ∧
    ∃ t, exec (.sub x y) s = .next t ∧ CycleEnds (s.pc + 2) [.regs] s t ∧
      let flag : Byte := if (s.reg y).toNat < (s.reg x).toNat then 0x01#8 else 0x00#8
      let now : Reg → Byte := fun r => if r = vf then flag else s.reg r
      ∀ r, t.reg r = match s.params.vfOrder with
        | .sequential => if r = x then now x - now y else now r
        | .latched => if r = vf then flag else if r = x then s.reg x - s.reg y else s.reg r

/-- 42_alu_and_regfile.md section 4 (R160, R162): `Shr` and `Shl` shift V[x] by one, the bit shifted out going to
VF, in the order of `VF_ORDER` (R165), which is the spec's own decision D19; the word's y bits are ignored, and the
variants carry none (D15). -/
def Obligations.ShiftsMoveTheBitShiftedOutToVf : Prop :=
  ∀ (x y : Reg) (s : State),
    Encodes (0x8#4 ++ x ++ y ++ 0x6#4) (.shr x) ∧ Encodes (0x8#4 ++ x ++ y ++ 0xE#4) (.shl x) ∧
    (∃ t, exec (.shr x) s = .next t ∧ CycleEnds (s.pc + 2) [.regs] s t ∧
      let flag : Byte := if (s.reg x).getLsbD 0 then 0x01#8 else 0x00#8
      let now : Reg → Byte := fun r => if r = vf then flag else s.reg r
      ∀ r, (t.reg r).toNat = match s.params.vfOrder with
        | .sequential => if r = x then (now x).toNat / 2 else (now r).toNat
        | .latched => if r = vf then flag.toNat else if r = x then (s.reg x).toNat / 2 else (s.reg r).toNat) ∧
    (∃ t, exec (.shl x) s = .next t ∧ CycleEnds (s.pc + 2) [.regs] s t ∧
      let flag : Byte := if (s.reg x).getLsbD 7 then 0x01#8 else 0x00#8
      let now : Reg → Byte := fun r => if r = vf then flag else s.reg r
      ∀ r, (t.reg r).toNat = match s.params.vfOrder with
        | .sequential => if r = x then (now x).toNat * 2 % 256 else (now r).toNat
        | .latched => if r = vf then flag.toNat else if r = x then (s.reg x).toNat * 2 % 256 else (s.reg r).toNat)

/-- 42_alu_and_regfile.md section 4 (R161), R298 (D18, D19): `Subn`. The flag is 1 if V[y] > V[x] strictly, on the
values before; the subtraction is of the registers that `VF_ORDER` gives, as for `Sub`. Under `SUBN_UNDERFLOW` =
fault an underflow of that subtraction raises `SubnUnderflow` with V[y] ++ V[x] from before, and nothing is
written; else it wraps. What a fault's entry writes and answers, and that nothing else changes (R286, R287), is the
spec's own decision D11; that the fault is a next state is the model's choice (log 9). -/
def Obligations.SubnWritesDifferenceOrUnderflows : Prop :=
  ∀ (x y : Reg) (s : State),
    let flag : Byte := if (s.reg x).toNat < (s.reg y).toNat then 0x01#8 else 0x00#8
    let now : Reg → Byte := fun r =>
      match s.params.vfOrder with
      | .sequential => if r = vf then flag else s.reg r
      | .latched => s.reg r
    Encodes (0x8#4 ++ x ++ y ++ 0x7#4) (.subn x y) ∧
    (s.params.subnUnderflow = .wrap ∨ (now x).toNat ≤ (now y).toNat →
      ∃ t, exec (.subn x y) s = .next t ∧ CycleEnds (s.pc + 2) [.regs] s t ∧
        ∀ r, t.reg r = match s.params.vfOrder with
          | .sequential => if r = x then now y - now x else now r
          | .latched => if r = vf then flag else if r = x then now y - now x else now r) ∧
    (s.params.subnUnderflow = .fault → (now y).toNat < (now x).toNat →
      ∃ t, exec (.subn x y) s = .next t ∧ FaultEntered .subnUnderflow (s.reg y ++ s.reg x) s t)

/-- R163: `Random` draws exactly one byte, also when kk is 0, and writes its AND with kk to V[x]. The byte
is the environment's (log 4): the statement holds for every answer. -/
def Obligations.RandomDrawsOneByteAndMasksIt : Prop :=
  ∀ (x : Reg) (kk : Byte) (s : State),
    Encodes (0xC#4 ++ x ++ kk) (.random x kk) ∧
    ∃ t, exec (.random x kk) s = .next t ∧ CycleEnds (s.pc + 2) [.regs, .random] s t ∧
      (∀ r, t.reg r = if r = x then s.randNow &&& kk else s.reg r) ∧
      t.rng = ⟨s.rng.script.tail, s.rng.count + 1⟩

/-- 42_alu_and_regfile.md section 6 (R165): when neither x nor y is 0xF, the two values of `VF_ORDER` give
identical results of Sub, Subn, Shr and Shl. -/
def Obligations.VfOrderMattersOnlyForRegisterF : Prop :=
  ∀ (x y : Reg) (s : State) (o : VfOrder), x ≠ vf → y ≠ vf →
    ∀ i ∈ [Instr.sub x y, Instr.subn x y, Instr.shr x, Instr.shl x],
      ∃ t, exec i s = .next t ∧
        exec i { s with params := { s.params with vfOrder := o } } =
          .next { t with params := { t.params with vfOrder := o } }

/-! ### Index register and memory -/

/-- R190, R191, R192 (G1, D23, D36): `LoadIndex`, `AddI` and `LoadSprite` write I and nothing else: the zero-extended
address, the sum modulo 65536, five times V[x] exactly. No flag is written. -/
def Obligations.IndexInstructionsWriteIOnly : Prop :=
  ∀ (a : Addr) (x : Reg) (s : State),
    Encodes (0xA#4 ++ a) (.loadIndex a) ∧ Encodes (0xF#4 ++ x ++ 0x1E#8) (.addI x) ∧
    Encodes (0xF#4 ++ x ++ 0x29#8) (.loadSprite x) ∧
    (∃ t, exec (.loadIndex a) s = .next t ∧ CycleEnds (s.pc + 2) [.index] s t ∧ t.i.toNat = a.toNat) ∧
    (∃ t, exec (.addI x) s = .next t ∧ CycleEnds (s.pc + 2) [.index] s t ∧
      t.i.toNat = (s.i.toNat + (s.reg x).toNat) % 65536) ∧
    (∃ t, exec (.loadSprite x) s = .next t ∧ CycleEnds (s.pc + 2) [.index] s t ∧
      t.i.toNat = (s.reg x).toNat * 5)

/-- 43_index_and_memory.md, LoadBCD (R193): `LoadBCD` stores hundreds, tens and ones of V[x] at I, I + 1, I + 2 and
no other byte, and leaves I alone; when I + 2 > 0xFFF it raises `MemoryOutOfBounds(I)` and writes no byte. That an
access past 0xFFF faults before any byte moves (R54, R285) is the spec's own decision D8; what the fault's entry
writes and answers, and that nothing else changes (R286, R287), is its decision D11; that the fault is a next state
is the model's choice (log 9). -/
def Obligations.LoadBcdStoresThreeDigitsAtI : Prop :=
  ∀ (x : Reg) (s : State),
    Encodes (0xF#4 ++ x ++ 0x33#8) (.loadBCD x) ∧
    (Memory.wf s.mem → s.i.toNat + 2 ≤ 0xFFF → ∃ t, exec (.loadBCD x) s = .next t ∧ CycleEnds (s.pc + 2) [.memory] s t ∧
      (Memory.read t.mem s.i.toNat).toNat = (s.reg x).toNat / 100 ∧
      (Memory.read t.mem (s.i.toNat + 1)).toNat = (s.reg x).toNat / 10 % 10 ∧
      (Memory.read t.mem (s.i.toNat + 2)).toNat = (s.reg x).toNat % 10 ∧
      ∀ a, (a < s.i.toNat ∨ s.i.toNat + 2 < a) → Memory.read t.mem a = Memory.read s.mem a) ∧
    (0xFFF < s.i.toNat + 2 → ∃ t, exec (.loadBCD x) s = .next t ∧ FaultEntered .memoryOutOfBounds s.i s t)

/-- 43_index_and_memory.md, SaveRegisters (R194; I kept: D24): `SaveRegisters` stores V0..V[x] at I..I + x and no
other byte, and leaves I alone; when I + x > 0xFFF it raises `MemoryOutOfBounds(I)` and writes no byte. That an
access past 0xFFF faults before any byte moves (R54, R285) is the spec's own decision D8; what the fault's entry
writes and answers, and that nothing else changes (R286, R287), is its decision D11; that the fault is a next state
is the model's choice (log 9). -/
def Obligations.SaveRegistersStoresV0ToVxAtI : Prop :=
  ∀ (x : Reg) (s : State),
    Encodes (0xF#4 ++ x ++ 0x55#8) (.saveRegisters x) ∧
    (Memory.wf s.mem → s.i.toNat + x.toNat ≤ 0xFFF → ∃ t, exec (.saveRegisters x) s = .next t ∧
      CycleEnds (s.pc + 2) [.memory] s t ∧
      (∀ r : Reg, r.toNat ≤ x.toNat → Memory.read t.mem (s.i.toNat + r.toNat) = s.reg r) ∧
      ∀ a, (a < s.i.toNat ∨ s.i.toNat + x.toNat < a) → Memory.read t.mem a = Memory.read s.mem a) ∧
    (0xFFF < s.i.toNat + x.toNat → ∃ t, exec (.saveRegisters x) s = .next t ∧
      FaultEntered .memoryOutOfBounds s.i s t)

/-- 43_index_and_memory.md, LoadRegisters (R195; I kept: D24): `LoadRegisters` loads V0..V[x] from I..I + x, leaves
the other registers and I alone; when I + x > 0xFFF it raises `MemoryOutOfBounds(I)` and writes no register. That
an access past 0xFFF faults before any byte moves (R54, R285) is the spec's own decision D8; what the fault's entry
writes and answers, and that nothing else changes (R286, R287), is its decision D11; that the fault is a next state
is the model's choice (log 9). -/
def Obligations.LoadRegistersLoadsV0ToVxFromI : Prop :=
  ∀ (x : Reg) (s : State),
    Encodes (0xF#4 ++ x ++ 0x65#8) (.loadRegisters x) ∧
    (s.i.toNat + x.toNat ≤ 0xFFF → ∃ t, exec (.loadRegisters x) s = .next t ∧
      CycleEnds (s.pc + 2) [.regs] s t ∧
      ∀ r : Reg, t.reg r = if r.toNat ≤ x.toNat then Memory.read s.mem (s.i.toNat + r.toNat) else s.reg r) ∧
    (0xFFF < s.i.toNat + x.toNat → ∃ t, exec (.loadRegisters x) s = .next t ∧
      FaultEntered .memoryOutOfBounds s.i s t)

/-- 43_index_and_memory.md (R194, R195): registers saved at I come back when they are loaded from the same I,
whatever the register file held in between; the registers above x keep what they held. -/
def Obligations.SavedRegistersLoadBack : Prop :=
  ∀ (x : Reg) (s : State) (v : Vector Byte 16), Memory.wf s.mem → s.i.toNat + x.toNat ≤ 0xFFF →
    ∃ t u, exec (.saveRegisters x) s = .next t ∧ exec (.loadRegisters x) { t with v := v } = .next u ∧
      ∀ r : Reg, u.reg r = if r.toNat ≤ x.toNat then s.reg r else v[r.toNat]'r.isLt

/-- 20_memory.md section 7 (R64, D29) and 70_reset_and_hazards.md section 2: a store is seen by the next
fetch: after `SaveRegisters`, a fetch at an address whose two bytes were stored gives the stored registers
as a word, the first one high. -/
def Obligations.StoreIsSeenByTheNextFetch : Prop :=
  ∀ (x r : Reg) (s : State), Memory.wf s.mem → s.i.toNat + x.toNat ≤ 0xFFF → r.toNat < x.toNat →
    ∃ t, exec (.saveRegisters x) s = .next t ∧
      { t with pc := s.i + r.zeroExtend 16 }.fetchWord = some (s.reg r ++ s.reg (r + 1))

/-! ### Timers and keys -/

/-- R220, R221, R222 (G1, G4): `GetDelay` reads DT before this cycle's decrement; `SetDelay` and `SetSound` write
their timer, and the decrement at the end of the same cycle applies to the new value. -/
def Obligations.TimerInstructionsReadAndWriteTheTimers : Prop :=
  ∀ (x : Reg) (s : State),
    Encodes (0xF#4 ++ x ++ 0x07#8) (.getDelay x) ∧ Encodes (0xF#4 ++ x ++ 0x15#8) (.setDelay x) ∧
    Encodes (0xF#4 ++ x ++ 0x18#8) (.setSound x) ∧
    (∃ t, exec (.getDelay x) s = .next t ∧ CycleEnds (s.pc + 2) [.regs] s t ∧
      ∀ r, t.reg r = if r = x then s.dt else s.reg r) ∧
    (∃ t, exec (.setDelay x) s = .next t ∧ CycleEnds (s.pc + 2) [] { s with dt := s.reg x } t) ∧
    (∃ t, exec (.setSound x) s = .next t ∧ CycleEnds (s.pc + 2) [] { s with st := s.reg x } t)

/-- R223, R224, R227 (G1, G7, D21): the key skips. V[x] > 0x0F raises `UnknownKey` before any poll; else key V[x]
is polled once and pc goes to pc + 4 or pc + 2 by its answer. The poll's answer is the environment's (log 2): bit
V[x] of the key levels it meets. What a fault's entry writes and answers, and that nothing else changes (R286,
R287), is the spec's own decision D11; that the fault is a next state is the model's choice (log 9). -/
def Obligations.KeySkipsPollTheKeyNumberedVx : Prop :=
  ∀ (x : Reg) (s : State),
    let down : Bool := (s.keyPoll.peek keyLevels).getLsbD (s.reg x).toNat
    Encodes (0xE#4 ++ x ++ 0x9E#8) (.skipKeyPressed x) ∧ Encodes (0xE#4 ++ x ++ 0xA1#8) (.skipKeyNotPressed x) ∧
    ((s.reg x).toNat ≤ 0x0F →
      (∃ t, exec (.skipKeyPressed x) s = .next t ∧
        CycleEnds (if down then s.pc + 4 else s.pc + 2) [.keyPolls] s t ∧ t.keyPoll = s.keyPoll.advance) ∧
      (∃ t, exec (.skipKeyNotPressed x) s = .next t ∧
        CycleEnds (if down then s.pc + 2 else s.pc + 4) [.keyPolls] s t ∧ t.keyPoll = s.keyPoll.advance)) ∧
    (0x0F < (s.reg x).toNat →
      (∃ t, exec (.skipKeyPressed x) s = .next t ∧
        FaultEntered .unknownKey ((s.reg x).zeroExtend 16) s t) ∧
      (∃ t, exec (.skipKeyNotPressed x) s = .next t ∧
        FaultEntered .unknownKey ((s.reg x).zeroExtend 16) s t))

/-- R225, R226 (G1, D20, D21): when the key source answers, `WaitKeyPressed` stores the key in V[x], no hold is
left, pc goes to pc + 2 under `FX0A_PC` = advance and stays under `stay`, and the timers fall once. -/
def Obligations.KeyWaitStoresTheKeyAndCompletes : Prop :=
  ∀ (x : Reg) (s : State) (k : Key), s.keyEvent = some k →
    Encodes (0xF#4 ++ x ++ 0x0A#8) (.waitKeyPressed x) ∧
    ∃ t, exec (.waitKeyPressed x) s = .next t ∧
      CycleEnds (match s.params.fx0aPc with | .advance => s.pc + 2 | .stay => s.pc) [.regs, .hold, .keyWaits] s t ∧
      (∀ r, t.reg r = if r = x then k.zeroExtend 8 else s.reg r) ∧ t.hold = none

/-- 40_execution_engine.md section 3 (R117, D21), 10_state.md section 8 (R36): with no answer the engine holds
inside the cycle, keeping the destination and the word's pc: no architectural state changes, no timer falls, no
answer is given, and while it holds no `isRunning()` query is made, for any number of looks at a key source that
does not answer; the answer, when it comes, completes the cycle as if it had come at once. That the key source
is asked look by look, and that each look is a step, are the model's choices (log 3, log 16). -/
def Obligations.KeyWaitHoldsUntilTheKeySourceAnswers : Prop :=
  (∀ (x : Reg) (s : State), s.keyEvent = none → ∃ t, exec (.waitKeyPressed x) s = .next t ∧
    t.hold = some ⟨x, s.pc⟩ ∧ t.resp = none ∧ OnlyChanges [.hold, .resp, .loadPort, .keyWaits] s t) ∧
  (∀ (s : State) (w : KeyWait) (n : Nat), s.status = .run → s.hold = some w →
    s.keyWait.script = List.replicate n none → ∃ t, Host.Core.run Sys2Proof.core n s = .next t ∧
      t.hold = some w ∧ OnlyChanges [.resp, .loadPort, .keyWaits] s t) ∧
  (∀ (s : State) (w : KeyWait), s.status = .run → s.hold = some w → w.pc = s.pc →
    step s = exec (.waitKeyPressed w.x) s)

/-! ### The screen -/

/-- R252, R256: `ClearScreen` sets all 2048 cells to 0 and marks the buffer dirty, also when it was clear
already; VF is not written. -/
def Obligations.ClearScreenZeroesEveryCell : Prop :=
  ∀ s : State,
    Encodes 0x00E0#16 .clearScreen ∧
    ∃ t, exec .clearScreen s = .next t ∧ CycleEnds (s.pc + 2) [.screen, .dirty] s t ∧
      (∀ r c, t.fb.cell r c = false) ∧ t.dirty = true

/-- R253, R254, R255, R257 (bit order G6 and D25): `Draw` XORs onto every cell that a set bit of the sprite at I
covers, wrapping at both edges, bit 7 leftmost, with the coordinates V[x] and V[y] from before; no other cell
changes; VF, and the blitter's port `collision` (R251), become 1 if some cell went from 1 to 0 and else 0; I and
the dirty mark are left alone. A sprite that runs past 0xFFF raises `MemoryOutOfBounds(I)`; n = 0 draws nothing,
clears VF and never faults. That an access past 0xFFF faults before any byte moves (R54, R285) is the spec's own
decision D8; what the fault's entry writes and answers, and that nothing else changes (R286, R287), is its decision
D11; that the fault is a next state is the model's choice (log 9). -/
def Obligations.DrawXorsTheSpriteAndReportsCollision : Prop :=
  ∀ (x y : Reg) (n : Nibble) (s : State),
    let covers := SpriteCovers s.mem s.i.toNat n.toNat (s.reg x) (s.reg y)
    Encodes (0xD#4 ++ x ++ y ++ n) (.draw x y n) ∧
    (n.toNat = 0 ∨ s.i.toNat + n.toNat ≤ 0x1000 → ∃ t, exec (.draw x y n) s = .next t ∧
      CycleEnds (s.pc + 2) [.regs, .screen, .collision] s t ∧
      (∀ r c, r < 32 → c < 64 → (t.fb.cell r c = true ↔ ¬ (s.fb.cell r c = true ↔ covers r c))) ∧
      (∀ q, q ≠ vf → t.reg q = s.reg q) ∧
      (t.reg vf = 0x01#8 ∨ t.reg vf = 0x00#8) ∧
      (t.reg vf = 0x01#8 ↔ ∃ r c, r < 32 ∧ c < 64 ∧ s.fb.cell r c = true ∧ covers r c) ∧
      (t.collision = true ↔ t.reg vf = 0x01#8)) ∧
    (0 < n.toNat → 0x1000 < s.i.toNat + n.toNat → ∃ t, exec (.draw x y n) s = .next t ∧
      FaultEntered .memoryOutOfBounds s.i s t)

/-- 45_framebuffer_blitter.md sections 2 and 3 (the source's collision example): drawing the same sprite at
the same place twice restores the screen, and the second drawing reports a collision exactly when some cell
of the sprite was 0 before the first. -/
def Obligations.DrawingTwiceRestoresTheScreen : Prop :=
  ∀ (x y : Reg) (n : Nibble) (s : State), x ≠ vf → y ≠ vf →
    (n.toNat = 0 ∨ s.i.toNat + n.toNat ≤ 0x1000) →
    ∃ t u, exec (.draw x y n) s = .next t ∧ exec (.draw x y n) t = .next u ∧ u.fb = s.fb ∧
      (u.reg vf = 0x01#8 ↔ ∃ r c, r < 32 ∧ c < 64 ∧ s.fb.cell r c = false ∧
        SpriteCovers s.mem s.i.toNat n.toNat (s.reg x) (s.reg y) r c)

/-! ### Rules over all instructions -/

/-- 45_framebuffer_blitter.md section 3 (R258): no cell changes in a step that does not run `ClearScreen` or `Draw`. -/
def Obligations.OnlyClearScreenAndDrawChangeTheScreen : Prop :=
  ∀ s t : State, step s = .next t → t.fb ≠ s.fb →
    ∃ w, s.fetchWord = some w ∧
      (decodeWord s.params.strict59 w = .instr .clearScreen ∨
        ∃ x y n, decodeWord s.params.strict59 w = .instr (.draw x y n))

/-- 20_memory.md section 1 (R50): of all instructions only `LoadBCD` and `SaveRegisters` write memory, each
only at I..I + 15. -/
def Obligations.OnlyTheTwoStoresChangeMemory : Prop :=
  ∀ (i : Instr) (s t : State) (a : Nat), exec i s = .next t →
    Memory.read t.mem a ≠ Memory.read s.mem a →
    (∃ x, i = .loadBCD x ∨ i = .saveRegisters x) ∧ s.i.toNat ≤ a ∧ a ≤ s.i.toNat + 15 ∧ a ≤ 0xFFF

/-- 10_state.md section 3 (R26): no instruction other than `Call` and `Return` changes the stack pointer or an
entry of the call stack. -/
def Obligations.OnlyCallAndReturnChangeTheStack : Prop :=
  ∀ (i : Instr) (s t : State), exec i s = .next t → (t.sp ≠ s.sp ∨ t.stack ≠ s.stack) →
    i = .ret ∨ ∃ a, i = .call a

/-- 10_state.md section 2 (R23): `LoadIndex`, `AddI` and `LoadSprite` are the instructions that write I. -/
def Obligations.OnlyThreeInstructionsWriteI : Prop :=
  ∀ (i : Instr) (s t : State), exec i s = .next t → t.i ≠ s.i →
    (∃ a, i = .loadIndex a) ∨ (∃ x, i = .addI x) ∨ (∃ x, i = .loadSprite x)

/-- 10_state.md section 1 (R21, the spec's inference from the instruction rules): VF changes only under Add, Sub, Shr, Subn, Shl and Draw, or under an
instruction whose destination names it. -/
def Obligations.VfChangesOnlyAsFlagOrDestination : Prop :=
  ∀ (i : Instr) (s t : State), exec i s = .next t → t.reg vf ≠ s.reg vf →
    (∃ x y, i = .add x y ∨ i = .sub x y ∨ i = .shr x ∨ i = .subn x y ∨ i = .shl x) ∨
    (∃ x y n, i = .draw x y n) ∨
    (∃ kk, i = .loadByte vf kk ∨ i = .addByte vf kk ∨ i = .random vf kk) ∨
    (∃ y, i = .move vf y ∨ i = .or vf y ∨ i = .and vf y ∨ i = .xor vf y) ∨
    i = .getDelay vf ∨ i = .waitKeyPressed vf ∨ i = .loadRegisters vf

/-- 40_execution_engine.md section 2 (R109, R111): only `Random` draws from the random source, only the key
skips poll a key, only `WaitKeyPressed` waits for one. -/
def Obligations.OnlyTheirInstructionsAskTheEnvironment : Prop :=
  ∀ (i : Instr) (s t : State), exec i s = .next t →
    t.running = s.running ∧
    (t.rng ≠ s.rng → ∃ x kk, i = .random x kk) ∧
    (t.keyPoll ≠ s.keyPoll → ∃ x, i = .skipKeyPressed x ∨ i = .skipKeyNotPressed x) ∧
    (t.keyWait ≠ s.keyWait → ∃ x, i = .waitKeyPressed x)

/-- 10_state.md sections 4 and 7 (R28, R35; D27, D37): nothing reads ST or the dirty mark: two machines that differ
only in them take steps to states that differ only in them. -/
def Obligations.SoundTimerAndDirtyMarkAreNeverRead : Prop :=
  ∀ (s t : State) (b : Byte) (d : Bool), step s = .next t →
    ∃ t', step { s with st := b, dirty := d } = .next t' ∧ OnlyChanges [.sound, .dirty] t t'

/-- 40_execution_engine.md section 2 (R111): only `Random` sees the random source: any other instruction does
the same whatever the source would answer. -/
def Obligations.OnlyRandomSeesTheRandomSource : Prop :=
  ∀ (i : Instr) (s t : State) (g : Input Byte), (∀ x kk, i ≠ .random x kk) → exec i s = .next t →
    exec i { s with rng := g } = .next { t with rng := g }

/-- 45_framebuffer_blitter.md section 1 (R251, D1): the port `collision` shows `flag_out` of the last
`displaySprite`: a step that does not run `Draw` leaves it as it was, a `Draw` that completes puts its flag
there (the value VF receives), one that faults leaves it, and nothing but the port itself depends on it. -/
def Obligations.CollisionPortKeepsTheLastDrawsFlag : Prop :=
  ∀ s t : State, step s = .next t →
    (t.collision ≠ s.collision → ∃ w x y n, s.fetchWord = some w ∧
      decodeWord s.params.strict59 w = .instr (.draw x y n)) ∧
    (∀ w x y n, Ready s → s.fetchWord = some w → decodeWord s.params.strict59 w = .instr (.draw x y n) →
      (t.resp = some .done → (t.collision = true ↔ t.reg vf = 0x01#8)) ∧
      (t.status = .fault → t.collision = s.collision)) ∧
    ∀ b : Bool, ∃ t', step { s with collision := b } = .next t' ∧ OnlyChanges [.collision] t t'
end

