-- ==== Sys2Proof/Laws/State.lean ====
section
/-! SUPPORT. One lemma per field per update of the state, so that no later proof unfolds an update. -/

namespace Sys2Proof.Machine

/-! ### `setReg` -/

@[simp] theorem State.setReg_v (s : State) (x : Reg) (b : Byte) : (s.setReg x b).v = s.v.set x.toNat b x.isLt := rfl
@[simp] theorem State.setReg_i (s : State) (x : Reg) (b : Byte) : (s.setReg x b).i = s.i := rfl
@[simp] theorem State.setReg_pc (s : State) (x : Reg) (b : Byte) : (s.setReg x b).pc = s.pc := rfl
@[simp] theorem State.setReg_sp (s : State) (x : Reg) (b : Byte) : (s.setReg x b).sp = s.sp := rfl
@[simp] theorem State.setReg_stack (s : State) (x : Reg) (b : Byte) : (s.setReg x b).stack = s.stack := rfl
@[simp] theorem State.setReg_dt (s : State) (x : Reg) (b : Byte) : (s.setReg x b).dt = s.dt := rfl
@[simp] theorem State.setReg_st (s : State) (x : Reg) (b : Byte) : (s.setReg x b).st = s.st := rfl
@[simp] theorem State.setReg_mem (s : State) (x : Reg) (b : Byte) : (s.setReg x b).mem = s.mem := rfl
@[simp] theorem State.setReg_fb (s : State) (x : Reg) (b : Byte) : (s.setReg x b).fb = s.fb := rfl
@[simp] theorem State.setReg_dirty (s : State) (x : Reg) (b : Byte) : (s.setReg x b).dirty = s.dirty := rfl
@[simp] theorem State.setReg_collision (s : State) (x : Reg) (b : Byte) : (s.setReg x b).collision = s.collision := rfl
@[simp] theorem State.setReg_status (s : State) (x : Reg) (b : Byte) : (s.setReg x b).status = s.status := rfl
@[simp] theorem State.setReg_faultCode (s : State) (x : Reg) (b : Byte) : (s.setReg x b).faultCode = s.faultCode := rfl
@[simp] theorem State.setReg_faultPc (s : State) (x : Reg) (b : Byte) : (s.setReg x b).faultPc = s.faultPc := rfl
@[simp] theorem State.setReg_faultInfo (s : State) (x : Reg) (b : Byte) : (s.setReg x b).faultInfo = s.faultInfo := rfl
@[simp] theorem State.setReg_hold (s : State) (x : Reg) (b : Byte) : (s.setReg x b).hold = s.hold := rfl
@[simp] theorem State.setReg_resp (s : State) (x : Reg) (b : Byte) : (s.setReg x b).resp = s.resp := rfl
@[simp] theorem State.setReg_loadOpen (s : State) (x : Reg) (b : Byte) : (s.setReg x b).loadOpen = s.loadOpen := rfl
@[simp] theorem State.setReg_params (s : State) (x : Reg) (b : Byte) : (s.setReg x b).params = s.params := rfl
@[simp] theorem State.setReg_running (s : State) (x : Reg) (b : Byte) : (s.setReg x b).running = s.running := rfl
@[simp] theorem State.setReg_keyPoll (s : State) (x : Reg) (b : Byte) : (s.setReg x b).keyPoll = s.keyPoll := rfl
@[simp] theorem State.setReg_keyWait (s : State) (x : Reg) (b : Byte) : (s.setReg x b).keyWait = s.keyWait := rfl
@[simp] theorem State.setReg_rng (s : State) (x : Reg) (b : Byte) : (s.setReg x b).rng = s.rng := rfl

/-! ### Draws from the environment -/

@[simp] theorem State.drawRunning_v (s : State) : (s.drawRunning).v = s.v := rfl
@[simp] theorem State.drawRunning_i (s : State) : (s.drawRunning).i = s.i := rfl
@[simp] theorem State.drawRunning_pc (s : State) : (s.drawRunning).pc = s.pc := rfl
@[simp] theorem State.drawRunning_sp (s : State) : (s.drawRunning).sp = s.sp := rfl
@[simp] theorem State.drawRunning_stack (s : State) : (s.drawRunning).stack = s.stack := rfl
@[simp] theorem State.drawRunning_dt (s : State) : (s.drawRunning).dt = s.dt := rfl
@[simp] theorem State.drawRunning_st (s : State) : (s.drawRunning).st = s.st := rfl
@[simp] theorem State.drawRunning_mem (s : State) : (s.drawRunning).mem = s.mem := rfl
@[simp] theorem State.drawRunning_fb (s : State) : (s.drawRunning).fb = s.fb := rfl
@[simp] theorem State.drawRunning_dirty (s : State) : (s.drawRunning).dirty = s.dirty := rfl
@[simp] theorem State.drawRunning_collision (s : State) : (s.drawRunning).collision = s.collision := rfl
@[simp] theorem State.drawRunning_status (s : State) : (s.drawRunning).status = s.status := rfl
@[simp] theorem State.drawRunning_faultCode (s : State) : (s.drawRunning).faultCode = s.faultCode := rfl
@[simp] theorem State.drawRunning_faultPc (s : State) : (s.drawRunning).faultPc = s.faultPc := rfl
@[simp] theorem State.drawRunning_faultInfo (s : State) : (s.drawRunning).faultInfo = s.faultInfo := rfl
@[simp] theorem State.drawRunning_hold (s : State) : (s.drawRunning).hold = s.hold := rfl
@[simp] theorem State.drawRunning_resp (s : State) : (s.drawRunning).resp = s.resp := rfl
@[simp] theorem State.drawRunning_loadOpen (s : State) : (s.drawRunning).loadOpen = s.loadOpen := rfl
@[simp] theorem State.drawRunning_params (s : State) : (s.drawRunning).params = s.params := rfl
@[simp] theorem State.drawRunning_running (s : State) : (s.drawRunning).running = s.running.advance := rfl
@[simp] theorem State.drawRunning_keyPoll (s : State) : (s.drawRunning).keyPoll = s.keyPoll := rfl
@[simp] theorem State.drawRunning_keyWait (s : State) : (s.drawRunning).keyWait = s.keyWait := rfl
@[simp] theorem State.drawRunning_rng (s : State) : (s.drawRunning).rng = s.rng := rfl
@[simp] theorem State.drawRunning_reg (s : State) (r : Reg) : (s.drawRunning).reg r = s.reg r := rfl

@[simp] theorem State.drawKeyPoll_v (s : State) : (s.drawKeyPoll).v = s.v := rfl
@[simp] theorem State.drawKeyPoll_i (s : State) : (s.drawKeyPoll).i = s.i := rfl
@[simp] theorem State.drawKeyPoll_pc (s : State) : (s.drawKeyPoll).pc = s.pc := rfl
@[simp] theorem State.drawKeyPoll_sp (s : State) : (s.drawKeyPoll).sp = s.sp := rfl
@[simp] theorem State.drawKeyPoll_stack (s : State) : (s.drawKeyPoll).stack = s.stack := rfl
@[simp] theorem State.drawKeyPoll_dt (s : State) : (s.drawKeyPoll).dt = s.dt := rfl
@[simp] theorem State.drawKeyPoll_st (s : State) : (s.drawKeyPoll).st = s.st := rfl
@[simp] theorem State.drawKeyPoll_mem (s : State) : (s.drawKeyPoll).mem = s.mem := rfl
@[simp] theorem State.drawKeyPoll_fb (s : State) : (s.drawKeyPoll).fb = s.fb := rfl
@[simp] theorem State.drawKeyPoll_dirty (s : State) : (s.drawKeyPoll).dirty = s.dirty := rfl
@[simp] theorem State.drawKeyPoll_collision (s : State) : (s.drawKeyPoll).collision = s.collision := rfl
@[simp] theorem State.drawKeyPoll_status (s : State) : (s.drawKeyPoll).status = s.status := rfl
@[simp] theorem State.drawKeyPoll_faultCode (s : State) : (s.drawKeyPoll).faultCode = s.faultCode := rfl
@[simp] theorem State.drawKeyPoll_faultPc (s : State) : (s.drawKeyPoll).faultPc = s.faultPc := rfl
@[simp] theorem State.drawKeyPoll_faultInfo (s : State) : (s.drawKeyPoll).faultInfo = s.faultInfo := rfl
@[simp] theorem State.drawKeyPoll_hold (s : State) : (s.drawKeyPoll).hold = s.hold := rfl
@[simp] theorem State.drawKeyPoll_resp (s : State) : (s.drawKeyPoll).resp = s.resp := rfl
@[simp] theorem State.drawKeyPoll_loadOpen (s : State) : (s.drawKeyPoll).loadOpen = s.loadOpen := rfl
@[simp] theorem State.drawKeyPoll_params (s : State) : (s.drawKeyPoll).params = s.params := rfl
@[simp] theorem State.drawKeyPoll_running (s : State) : (s.drawKeyPoll).running = s.running := rfl
@[simp] theorem State.drawKeyPoll_keyPoll (s : State) : (s.drawKeyPoll).keyPoll = s.keyPoll.advance := rfl
@[simp] theorem State.drawKeyPoll_keyWait (s : State) : (s.drawKeyPoll).keyWait = s.keyWait := rfl
@[simp] theorem State.drawKeyPoll_rng (s : State) : (s.drawKeyPoll).rng = s.rng := rfl
@[simp] theorem State.drawKeyPoll_reg (s : State) (r : Reg) : (s.drawKeyPoll).reg r = s.reg r := rfl

@[simp] theorem State.drawKeyEvent_v (s : State) : (s.drawKeyEvent).v = s.v := rfl
@[simp] theorem State.drawKeyEvent_i (s : State) : (s.drawKeyEvent).i = s.i := rfl
@[simp] theorem State.drawKeyEvent_pc (s : State) : (s.drawKeyEvent).pc = s.pc := rfl
@[simp] theorem State.drawKeyEvent_sp (s : State) : (s.drawKeyEvent).sp = s.sp := rfl
@[simp] theorem State.drawKeyEvent_stack (s : State) : (s.drawKeyEvent).stack = s.stack := rfl
@[simp] theorem State.drawKeyEvent_dt (s : State) : (s.drawKeyEvent).dt = s.dt := rfl
@[simp] theorem State.drawKeyEvent_st (s : State) : (s.drawKeyEvent).st = s.st := rfl
@[simp] theorem State.drawKeyEvent_mem (s : State) : (s.drawKeyEvent).mem = s.mem := rfl
@[simp] theorem State.drawKeyEvent_fb (s : State) : (s.drawKeyEvent).fb = s.fb := rfl
@[simp] theorem State.drawKeyEvent_dirty (s : State) : (s.drawKeyEvent).dirty = s.dirty := rfl
@[simp] theorem State.drawKeyEvent_collision (s : State) : (s.drawKeyEvent).collision = s.collision := rfl
@[simp] theorem State.drawKeyEvent_status (s : State) : (s.drawKeyEvent).status = s.status := rfl
@[simp] theorem State.drawKeyEvent_faultCode (s : State) : (s.drawKeyEvent).faultCode = s.faultCode := rfl
@[simp] theorem State.drawKeyEvent_faultPc (s : State) : (s.drawKeyEvent).faultPc = s.faultPc := rfl
@[simp] theorem State.drawKeyEvent_faultInfo (s : State) : (s.drawKeyEvent).faultInfo = s.faultInfo := rfl
@[simp] theorem State.drawKeyEvent_hold (s : State) : (s.drawKeyEvent).hold = s.hold := rfl
@[simp] theorem State.drawKeyEvent_resp (s : State) : (s.drawKeyEvent).resp = s.resp := rfl
@[simp] theorem State.drawKeyEvent_loadOpen (s : State) : (s.drawKeyEvent).loadOpen = s.loadOpen := rfl
@[simp] theorem State.drawKeyEvent_params (s : State) : (s.drawKeyEvent).params = s.params := rfl
@[simp] theorem State.drawKeyEvent_running (s : State) : (s.drawKeyEvent).running = s.running := rfl
@[simp] theorem State.drawKeyEvent_keyPoll (s : State) : (s.drawKeyEvent).keyPoll = s.keyPoll := rfl
@[simp] theorem State.drawKeyEvent_keyWait (s : State) : (s.drawKeyEvent).keyWait = s.keyWait.advance := rfl
@[simp] theorem State.drawKeyEvent_rng (s : State) : (s.drawKeyEvent).rng = s.rng := rfl
@[simp] theorem State.drawKeyEvent_reg (s : State) (r : Reg) : (s.drawKeyEvent).reg r = s.reg r := rfl

@[simp] theorem State.drawRand_v (s : State) : (s.drawRand).v = s.v := rfl
@[simp] theorem State.drawRand_i (s : State) : (s.drawRand).i = s.i := rfl
@[simp] theorem State.drawRand_pc (s : State) : (s.drawRand).pc = s.pc := rfl
@[simp] theorem State.drawRand_sp (s : State) : (s.drawRand).sp = s.sp := rfl
@[simp] theorem State.drawRand_stack (s : State) : (s.drawRand).stack = s.stack := rfl
@[simp] theorem State.drawRand_dt (s : State) : (s.drawRand).dt = s.dt := rfl
@[simp] theorem State.drawRand_st (s : State) : (s.drawRand).st = s.st := rfl
@[simp] theorem State.drawRand_mem (s : State) : (s.drawRand).mem = s.mem := rfl
@[simp] theorem State.drawRand_fb (s : State) : (s.drawRand).fb = s.fb := rfl
@[simp] theorem State.drawRand_dirty (s : State) : (s.drawRand).dirty = s.dirty := rfl
@[simp] theorem State.drawRand_collision (s : State) : (s.drawRand).collision = s.collision := rfl
@[simp] theorem State.drawRand_status (s : State) : (s.drawRand).status = s.status := rfl
@[simp] theorem State.drawRand_faultCode (s : State) : (s.drawRand).faultCode = s.faultCode := rfl
@[simp] theorem State.drawRand_faultPc (s : State) : (s.drawRand).faultPc = s.faultPc := rfl
@[simp] theorem State.drawRand_faultInfo (s : State) : (s.drawRand).faultInfo = s.faultInfo := rfl
@[simp] theorem State.drawRand_hold (s : State) : (s.drawRand).hold = s.hold := rfl
@[simp] theorem State.drawRand_resp (s : State) : (s.drawRand).resp = s.resp := rfl
@[simp] theorem State.drawRand_loadOpen (s : State) : (s.drawRand).loadOpen = s.loadOpen := rfl
@[simp] theorem State.drawRand_params (s : State) : (s.drawRand).params = s.params := rfl
@[simp] theorem State.drawRand_running (s : State) : (s.drawRand).running = s.running := rfl
@[simp] theorem State.drawRand_keyPoll (s : State) : (s.drawRand).keyPoll = s.keyPoll := rfl
@[simp] theorem State.drawRand_keyWait (s : State) : (s.drawRand).keyWait = s.keyWait := rfl
@[simp] theorem State.drawRand_rng (s : State) : (s.drawRand).rng = s.rng.advance := rfl
@[simp] theorem State.drawRand_reg (s : State) (r : Reg) : (s.drawRand).reg r = s.reg r := rfl

/-! ### The end of a cycle -/

@[simp] theorem State.endCycle_v (s : State) (p : Word) : (s.endCycle p).v = s.v := rfl
@[simp] theorem State.endCycle_i (s : State) (p : Word) : (s.endCycle p).i = s.i := rfl
@[simp] theorem State.endCycle_pc (s : State) (p : Word) : (s.endCycle p).pc = p := rfl
@[simp] theorem State.endCycle_sp (s : State) (p : Word) : (s.endCycle p).sp = s.sp := rfl
@[simp] theorem State.endCycle_stack (s : State) (p : Word) : (s.endCycle p).stack = s.stack := rfl
@[simp] theorem State.endCycle_dt (s : State) (p : Word) : (s.endCycle p).dt = timerStep s.dt := rfl
@[simp] theorem State.endCycle_st (s : State) (p : Word) : (s.endCycle p).st = timerStep s.st := rfl
@[simp] theorem State.endCycle_mem (s : State) (p : Word) : (s.endCycle p).mem = s.mem := rfl
@[simp] theorem State.endCycle_fb (s : State) (p : Word) : (s.endCycle p).fb = s.fb := rfl
@[simp] theorem State.endCycle_dirty (s : State) (p : Word) : (s.endCycle p).dirty = s.dirty := rfl
@[simp] theorem State.endCycle_collision (s : State) (p : Word) : (s.endCycle p).collision = s.collision := rfl
@[simp] theorem State.endCycle_status (s : State) (p : Word) : (s.endCycle p).status = s.status := rfl
@[simp] theorem State.endCycle_faultCode (s : State) (p : Word) : (s.endCycle p).faultCode = s.faultCode := rfl
@[simp] theorem State.endCycle_faultPc (s : State) (p : Word) : (s.endCycle p).faultPc = s.faultPc := rfl
@[simp] theorem State.endCycle_faultInfo (s : State) (p : Word) : (s.endCycle p).faultInfo = s.faultInfo := rfl
@[simp] theorem State.endCycle_hold (s : State) (p : Word) : (s.endCycle p).hold = s.hold := rfl
@[simp] theorem State.endCycle_resp (s : State) (p : Word) : (s.endCycle p).resp = some .done := rfl
@[simp] theorem State.endCycle_loadOpen (s : State) (p : Word) : (s.endCycle p).loadOpen = false := rfl
@[simp] theorem State.endCycle_params (s : State) (p : Word) : (s.endCycle p).params = s.params := rfl
@[simp] theorem State.endCycle_running (s : State) (p : Word) : (s.endCycle p).running = s.running := rfl
@[simp] theorem State.endCycle_keyPoll (s : State) (p : Word) : (s.endCycle p).keyPoll = s.keyPoll := rfl
@[simp] theorem State.endCycle_keyWait (s : State) (p : Word) : (s.endCycle p).keyWait = s.keyWait := rfl
@[simp] theorem State.endCycle_rng (s : State) (p : Word) : (s.endCycle p).rng = s.rng := rfl
@[simp] theorem State.endCycle_reg (s : State) (p : Word) (r : Reg) : (s.endCycle p).reg r = s.reg r := rfl

@[simp] theorem State.endNext_v (s : State) : (s.endNext).v = s.v := rfl
@[simp] theorem State.endNext_i (s : State) : (s.endNext).i = s.i := rfl
@[simp] theorem State.endNext_pc (s : State) : (s.endNext).pc = s.pc + 2 := rfl
@[simp] theorem State.endNext_sp (s : State) : (s.endNext).sp = s.sp := rfl
@[simp] theorem State.endNext_stack (s : State) : (s.endNext).stack = s.stack := rfl
@[simp] theorem State.endNext_dt (s : State) : (s.endNext).dt = timerStep s.dt := rfl
@[simp] theorem State.endNext_st (s : State) : (s.endNext).st = timerStep s.st := rfl
@[simp] theorem State.endNext_mem (s : State) : (s.endNext).mem = s.mem := rfl
@[simp] theorem State.endNext_fb (s : State) : (s.endNext).fb = s.fb := rfl
@[simp] theorem State.endNext_dirty (s : State) : (s.endNext).dirty = s.dirty := rfl
@[simp] theorem State.endNext_collision (s : State) : (s.endNext).collision = s.collision := rfl
@[simp] theorem State.endNext_status (s : State) : (s.endNext).status = s.status := rfl
@[simp] theorem State.endNext_faultCode (s : State) : (s.endNext).faultCode = s.faultCode := rfl
@[simp] theorem State.endNext_faultPc (s : State) : (s.endNext).faultPc = s.faultPc := rfl
@[simp] theorem State.endNext_faultInfo (s : State) : (s.endNext).faultInfo = s.faultInfo := rfl
@[simp] theorem State.endNext_hold (s : State) : (s.endNext).hold = s.hold := rfl
@[simp] theorem State.endNext_resp (s : State) : (s.endNext).resp = some .done := rfl
@[simp] theorem State.endNext_loadOpen (s : State) : (s.endNext).loadOpen = false := rfl
@[simp] theorem State.endNext_params (s : State) : (s.endNext).params = s.params := rfl
@[simp] theorem State.endNext_running (s : State) : (s.endNext).running = s.running := rfl
@[simp] theorem State.endNext_keyPoll (s : State) : (s.endNext).keyPoll = s.keyPoll := rfl
@[simp] theorem State.endNext_keyWait (s : State) : (s.endNext).keyWait = s.keyWait := rfl
@[simp] theorem State.endNext_rng (s : State) : (s.endNext).rng = s.rng := rfl
@[simp] theorem State.endNext_reg (s : State) (r : Reg) : (s.endNext).reg r = s.reg r := rfl

@[simp] theorem State.endSkip_v (s : State) (c : Bool) : (s.endSkip c).v = s.v := rfl
@[simp] theorem State.endSkip_i (s : State) (c : Bool) : (s.endSkip c).i = s.i := rfl
@[simp] theorem State.endSkip_pc (s : State) (c : Bool) : (s.endSkip c).pc = if c then s.pc + 4 else s.pc + 2 := rfl
@[simp] theorem State.endSkip_sp (s : State) (c : Bool) : (s.endSkip c).sp = s.sp := rfl
@[simp] theorem State.endSkip_stack (s : State) (c : Bool) : (s.endSkip c).stack = s.stack := rfl
@[simp] theorem State.endSkip_dt (s : State) (c : Bool) : (s.endSkip c).dt = timerStep s.dt := rfl
@[simp] theorem State.endSkip_st (s : State) (c : Bool) : (s.endSkip c).st = timerStep s.st := rfl
@[simp] theorem State.endSkip_mem (s : State) (c : Bool) : (s.endSkip c).mem = s.mem := rfl
@[simp] theorem State.endSkip_fb (s : State) (c : Bool) : (s.endSkip c).fb = s.fb := rfl
@[simp] theorem State.endSkip_dirty (s : State) (c : Bool) : (s.endSkip c).dirty = s.dirty := rfl
@[simp] theorem State.endSkip_collision (s : State) (c : Bool) : (s.endSkip c).collision = s.collision := rfl
@[simp] theorem State.endSkip_status (s : State) (c : Bool) : (s.endSkip c).status = s.status := rfl
@[simp] theorem State.endSkip_faultCode (s : State) (c : Bool) : (s.endSkip c).faultCode = s.faultCode := rfl
@[simp] theorem State.endSkip_faultPc (s : State) (c : Bool) : (s.endSkip c).faultPc = s.faultPc := rfl
@[simp] theorem State.endSkip_faultInfo (s : State) (c : Bool) : (s.endSkip c).faultInfo = s.faultInfo := rfl
@[simp] theorem State.endSkip_hold (s : State) (c : Bool) : (s.endSkip c).hold = s.hold := rfl
@[simp] theorem State.endSkip_resp (s : State) (c : Bool) : (s.endSkip c).resp = some .done := rfl
@[simp] theorem State.endSkip_loadOpen (s : State) (c : Bool) : (s.endSkip c).loadOpen = false := rfl
@[simp] theorem State.endSkip_params (s : State) (c : Bool) : (s.endSkip c).params = s.params := rfl
@[simp] theorem State.endSkip_running (s : State) (c : Bool) : (s.endSkip c).running = s.running := rfl
@[simp] theorem State.endSkip_keyPoll (s : State) (c : Bool) : (s.endSkip c).keyPoll = s.keyPoll := rfl
@[simp] theorem State.endSkip_keyWait (s : State) (c : Bool) : (s.endSkip c).keyWait = s.keyWait := rfl
@[simp] theorem State.endSkip_rng (s : State) (c : Bool) : (s.endSkip c).rng = s.rng := rfl
@[simp] theorem State.endSkip_reg (s : State) (c : Bool) (r : Reg) : (s.endSkip c).reg r = s.reg r := rfl

/-! ### Fault entry and the other answers -/

@[simp] theorem State.raise_v (s : State) (c : FaultCode) (n : Word) : (s.raise c n).v = s.v := rfl
@[simp] theorem State.raise_i (s : State) (c : FaultCode) (n : Word) : (s.raise c n).i = s.i := rfl
@[simp] theorem State.raise_pc (s : State) (c : FaultCode) (n : Word) : (s.raise c n).pc = s.pc := rfl
@[simp] theorem State.raise_sp (s : State) (c : FaultCode) (n : Word) : (s.raise c n).sp = s.sp := rfl
@[simp] theorem State.raise_stack (s : State) (c : FaultCode) (n : Word) : (s.raise c n).stack = s.stack := rfl
@[simp] theorem State.raise_dt (s : State) (c : FaultCode) (n : Word) : (s.raise c n).dt = s.dt := rfl
@[simp] theorem State.raise_st (s : State) (c : FaultCode) (n : Word) : (s.raise c n).st = s.st := rfl
@[simp] theorem State.raise_mem (s : State) (c : FaultCode) (n : Word) : (s.raise c n).mem = s.mem := rfl
@[simp] theorem State.raise_fb (s : State) (c : FaultCode) (n : Word) : (s.raise c n).fb = s.fb := rfl
@[simp] theorem State.raise_dirty (s : State) (c : FaultCode) (n : Word) : (s.raise c n).dirty = s.dirty := rfl
@[simp] theorem State.raise_collision (s : State) (c : FaultCode) (n : Word) : (s.raise c n).collision = s.collision := rfl
@[simp] theorem State.raise_status (s : State) (c : FaultCode) (n : Word) : (s.raise c n).status = .fault := rfl
@[simp] theorem State.raise_faultCode (s : State) (c : FaultCode) (n : Word) : (s.raise c n).faultCode = c := rfl
@[simp] theorem State.raise_faultPc (s : State) (c : FaultCode) (n : Word) : (s.raise c n).faultPc = s.pc := rfl
@[simp] theorem State.raise_faultInfo (s : State) (c : FaultCode) (n : Word) : (s.raise c n).faultInfo = n := rfl
@[simp] theorem State.raise_hold (s : State) (c : FaultCode) (n : Word) : (s.raise c n).hold = s.hold := rfl
@[simp] theorem State.raise_resp (s : State) (c : FaultCode) (n : Word) : (s.raise c n).resp = some (.fault c s.pc n) := rfl
@[simp] theorem State.raise_loadOpen (s : State) (c : FaultCode) (n : Word) : (s.raise c n).loadOpen = false := rfl
@[simp] theorem State.raise_params (s : State) (c : FaultCode) (n : Word) : (s.raise c n).params = s.params := rfl
@[simp] theorem State.raise_running (s : State) (c : FaultCode) (n : Word) : (s.raise c n).running = s.running := rfl
@[simp] theorem State.raise_keyPoll (s : State) (c : FaultCode) (n : Word) : (s.raise c n).keyPoll = s.keyPoll := rfl
@[simp] theorem State.raise_keyWait (s : State) (c : FaultCode) (n : Word) : (s.raise c n).keyWait = s.keyWait := rfl
@[simp] theorem State.raise_rng (s : State) (c : FaultCode) (n : Word) : (s.raise c n).rng = s.rng := rfl
@[simp] theorem State.raise_reg (s : State) (c : FaultCode) (n : Word) (r : Reg) : (s.raise c n).reg r = s.reg r := rfl

@[simp] theorem State.repeatFault_v (s : State) : (s.repeatFault).v = s.v := rfl
@[simp] theorem State.repeatFault_i (s : State) : (s.repeatFault).i = s.i := rfl
@[simp] theorem State.repeatFault_pc (s : State) : (s.repeatFault).pc = s.pc := rfl
@[simp] theorem State.repeatFault_sp (s : State) : (s.repeatFault).sp = s.sp := rfl
@[simp] theorem State.repeatFault_stack (s : State) : (s.repeatFault).stack = s.stack := rfl
@[simp] theorem State.repeatFault_dt (s : State) : (s.repeatFault).dt = s.dt := rfl
@[simp] theorem State.repeatFault_st (s : State) : (s.repeatFault).st = s.st := rfl
@[simp] theorem State.repeatFault_mem (s : State) : (s.repeatFault).mem = s.mem := rfl
@[simp] theorem State.repeatFault_fb (s : State) : (s.repeatFault).fb = s.fb := rfl
@[simp] theorem State.repeatFault_dirty (s : State) : (s.repeatFault).dirty = s.dirty := rfl
@[simp] theorem State.repeatFault_collision (s : State) : (s.repeatFault).collision = s.collision := rfl
@[simp] theorem State.repeatFault_status (s : State) : (s.repeatFault).status = s.status := rfl
@[simp] theorem State.repeatFault_faultCode (s : State) : (s.repeatFault).faultCode = s.faultCode := rfl
@[simp] theorem State.repeatFault_faultPc (s : State) : (s.repeatFault).faultPc = s.faultPc := rfl
@[simp] theorem State.repeatFault_faultInfo (s : State) : (s.repeatFault).faultInfo = s.faultInfo := rfl
@[simp] theorem State.repeatFault_hold (s : State) : (s.repeatFault).hold = s.hold := rfl
@[simp] theorem State.repeatFault_resp (s : State) : (s.repeatFault).resp = some (.fault s.faultCode s.faultPc s.faultInfo) := rfl
@[simp] theorem State.repeatFault_loadOpen (s : State) : (s.repeatFault).loadOpen = s.loadOpen := rfl
@[simp] theorem State.repeatFault_params (s : State) : (s.repeatFault).params = s.params := rfl
@[simp] theorem State.repeatFault_running (s : State) : (s.repeatFault).running = s.running := rfl
@[simp] theorem State.repeatFault_keyPoll (s : State) : (s.repeatFault).keyPoll = s.keyPoll := rfl
@[simp] theorem State.repeatFault_keyWait (s : State) : (s.repeatFault).keyWait = s.keyWait := rfl
@[simp] theorem State.repeatFault_rng (s : State) : (s.repeatFault).rng = s.rng := rfl
@[simp] theorem State.repeatFault_reg (s : State) (r : Reg) : (s.repeatFault).reg r = s.reg r := rfl

@[simp] theorem State.halt_v (s : State) : (s.halt).v = s.v := rfl
@[simp] theorem State.halt_i (s : State) : (s.halt).i = s.i := rfl
@[simp] theorem State.halt_pc (s : State) : (s.halt).pc = s.pc := rfl
@[simp] theorem State.halt_sp (s : State) : (s.halt).sp = s.sp := rfl
@[simp] theorem State.halt_stack (s : State) : (s.halt).stack = s.stack := rfl
@[simp] theorem State.halt_dt (s : State) : (s.halt).dt = s.dt := rfl
@[simp] theorem State.halt_st (s : State) : (s.halt).st = s.st := rfl
@[simp] theorem State.halt_mem (s : State) : (s.halt).mem = s.mem := rfl
@[simp] theorem State.halt_fb (s : State) : (s.halt).fb = s.fb := rfl
@[simp] theorem State.halt_dirty (s : State) : (s.halt).dirty = s.dirty := rfl
@[simp] theorem State.halt_collision (s : State) : (s.halt).collision = s.collision := rfl
@[simp] theorem State.halt_status (s : State) : (s.halt).status = s.status := rfl
@[simp] theorem State.halt_faultCode (s : State) : (s.halt).faultCode = s.faultCode := rfl
@[simp] theorem State.halt_faultPc (s : State) : (s.halt).faultPc = s.faultPc := rfl
@[simp] theorem State.halt_faultInfo (s : State) : (s.halt).faultInfo = s.faultInfo := rfl
@[simp] theorem State.halt_hold (s : State) : (s.halt).hold = s.hold := rfl
@[simp] theorem State.halt_resp (s : State) : (s.halt).resp = some .halted := rfl
@[simp] theorem State.halt_loadOpen (s : State) : (s.halt).loadOpen = false := rfl
@[simp] theorem State.halt_params (s : State) : (s.halt).params = s.params := rfl
@[simp] theorem State.halt_running (s : State) : (s.halt).running = s.running := rfl
@[simp] theorem State.halt_keyPoll (s : State) : (s.halt).keyPoll = s.keyPoll := rfl
@[simp] theorem State.halt_keyWait (s : State) : (s.halt).keyWait = s.keyWait := rfl
@[simp] theorem State.halt_rng (s : State) : (s.halt).rng = s.rng := rfl
@[simp] theorem State.halt_reg (s : State) (r : Reg) : (s.halt).reg r = s.reg r := rfl

/-! ### The screen -/

@[simp] theorem State.clear_v (s : State) : (s.clear).v = s.v := rfl
@[simp] theorem State.clear_i (s : State) : (s.clear).i = s.i := rfl
@[simp] theorem State.clear_pc (s : State) : (s.clear).pc = s.pc := rfl
@[simp] theorem State.clear_sp (s : State) : (s.clear).sp = s.sp := rfl
@[simp] theorem State.clear_stack (s : State) : (s.clear).stack = s.stack := rfl
@[simp] theorem State.clear_dt (s : State) : (s.clear).dt = s.dt := rfl
@[simp] theorem State.clear_st (s : State) : (s.clear).st = s.st := rfl
@[simp] theorem State.clear_mem (s : State) : (s.clear).mem = s.mem := rfl
@[simp] theorem State.clear_fb (s : State) : (s.clear).fb = Screen.blank := rfl
@[simp] theorem State.clear_dirty (s : State) : (s.clear).dirty = true := rfl
@[simp] theorem State.clear_collision (s : State) : (s.clear).collision = s.collision := rfl
@[simp] theorem State.clear_status (s : State) : (s.clear).status = s.status := rfl
@[simp] theorem State.clear_faultCode (s : State) : (s.clear).faultCode = s.faultCode := rfl
@[simp] theorem State.clear_faultPc (s : State) : (s.clear).faultPc = s.faultPc := rfl
@[simp] theorem State.clear_faultInfo (s : State) : (s.clear).faultInfo = s.faultInfo := rfl
@[simp] theorem State.clear_hold (s : State) : (s.clear).hold = s.hold := rfl
@[simp] theorem State.clear_resp (s : State) : (s.clear).resp = s.resp := rfl
@[simp] theorem State.clear_loadOpen (s : State) : (s.clear).loadOpen = s.loadOpen := rfl
@[simp] theorem State.clear_params (s : State) : (s.clear).params = s.params := rfl
@[simp] theorem State.clear_running (s : State) : (s.clear).running = s.running := rfl
@[simp] theorem State.clear_keyPoll (s : State) : (s.clear).keyPoll = s.keyPoll := rfl
@[simp] theorem State.clear_keyWait (s : State) : (s.clear).keyWait = s.keyWait := rfl
@[simp] theorem State.clear_rng (s : State) : (s.clear).rng = s.rng := rfl
@[simp] theorem State.clear_reg (s : State) (r : Reg) : (s.clear).reg r = s.reg r := rfl

@[simp] theorem State.blit_i (s : State) (bs : List Byte) (x y : Byte) : (s.blit bs x y).i = s.i := rfl
@[simp] theorem State.blit_pc (s : State) (bs : List Byte) (x y : Byte) : (s.blit bs x y).pc = s.pc := rfl
@[simp] theorem State.blit_sp (s : State) (bs : List Byte) (x y : Byte) : (s.blit bs x y).sp = s.sp := rfl
@[simp] theorem State.blit_stack (s : State) (bs : List Byte) (x y : Byte) : (s.blit bs x y).stack = s.stack := rfl
@[simp] theorem State.blit_dt (s : State) (bs : List Byte) (x y : Byte) : (s.blit bs x y).dt = s.dt := rfl
@[simp] theorem State.blit_st (s : State) (bs : List Byte) (x y : Byte) : (s.blit bs x y).st = s.st := rfl
@[simp] theorem State.blit_mem (s : State) (bs : List Byte) (x y : Byte) : (s.blit bs x y).mem = s.mem := rfl
@[simp] theorem State.blit_fb (s : State) (bs : List Byte) (x y : Byte) : (s.blit bs x y).fb = (displaySprite bs x y s.fb).1 := rfl
@[simp] theorem State.blit_dirty (s : State) (bs : List Byte) (x y : Byte) : (s.blit bs x y).dirty = s.dirty := rfl
@[simp] theorem State.blit_collision (s : State) (bs : List Byte) (x y : Byte) : (s.blit bs x y).collision = (displaySprite bs x y s.fb).2 := rfl
@[simp] theorem State.blit_status (s : State) (bs : List Byte) (x y : Byte) : (s.blit bs x y).status = s.status := rfl
@[simp] theorem State.blit_faultCode (s : State) (bs : List Byte) (x y : Byte) : (s.blit bs x y).faultCode = s.faultCode := rfl
@[simp] theorem State.blit_faultPc (s : State) (bs : List Byte) (x y : Byte) : (s.blit bs x y).faultPc = s.faultPc := rfl
@[simp] theorem State.blit_faultInfo (s : State) (bs : List Byte) (x y : Byte) : (s.blit bs x y).faultInfo = s.faultInfo := rfl
@[simp] theorem State.blit_hold (s : State) (bs : List Byte) (x y : Byte) : (s.blit bs x y).hold = s.hold := rfl
@[simp] theorem State.blit_resp (s : State) (bs : List Byte) (x y : Byte) : (s.blit bs x y).resp = s.resp := rfl
@[simp] theorem State.blit_loadOpen (s : State) (bs : List Byte) (x y : Byte) : (s.blit bs x y).loadOpen = s.loadOpen := rfl
@[simp] theorem State.blit_params (s : State) (bs : List Byte) (x y : Byte) : (s.blit bs x y).params = s.params := rfl
@[simp] theorem State.blit_running (s : State) (bs : List Byte) (x y : Byte) : (s.blit bs x y).running = s.running := rfl
@[simp] theorem State.blit_keyPoll (s : State) (bs : List Byte) (x y : Byte) : (s.blit bs x y).keyPoll = s.keyPoll := rfl
@[simp] theorem State.blit_keyWait (s : State) (bs : List Byte) (x y : Byte) : (s.blit bs x y).keyWait = s.keyWait := rfl
@[simp] theorem State.blit_rng (s : State) (bs : List Byte) (x y : Byte) : (s.blit bs x y).rng = s.rng := rfl

end Sys2Proof.Machine
end

