-- ==== Sys2Proof/Laws/Blitter.lean ====
section
/-! SUPPORT. The framebuffer cell by cell. -/

namespace Sys2Proof.Machine

/-- A cell after one cell was written. -/
theorem Screen.cell_setCell (fb : Screen) (r c r' c' : Nat) (b : Bool) (hr : r < 32) (hc : c < 64) :
    (fb.setCell r c b).cell r' c' = if r' = r ∧ c' = c then b else fb.cell r' c' := by
  have h0 : fb.setCell r c b = fb.set r ((fb[r]'hr).set c b hc) hr := dif_pos ⟨hr, hc⟩
  rw [h0]
  unfold Screen.cell
  by_cases h : r' < 32 ∧ c' < 64
  · rw [dif_pos h, dif_pos h]
    by_cases hrr : r' = r
    · subst hrr
      by_cases hcc : c' = c
      · subst hcc; simp
      · have hcc' : c ≠ c' := fun h => hcc h.symm
        simp [hcc, hcc']
    · have hrr' : r ≠ r' := fun h => hrr h.symm
      simp [hrr, hrr']
  · have : ¬ (r' = r ∧ c' = c) := fun ⟨h1, h2⟩ => h ⟨h1 ▸ hr, h2 ▸ hc⟩
    rw [dif_neg h, dif_neg h, if_neg this]

/-- Two buffers with the same cells are the same. -/
theorem Screen.ext_cell {fb gb : Screen} (h : ∀ r c, r < 32 → c < 64 → fb.cell r c = gb.cell r c) : fb = gb := by
  apply Vector.ext
  intro r hr
  apply Vector.ext
  intro c hc
  simpa [Screen.cell, hr, hc] using h r c hr hc

@[simp] theorem Screen.cell_blank (r c : Nat) : Screen.blank.cell r c = false := by
  unfold Screen.cell Screen.blank
  split <;> simp

/-- XOR of one cell inside the buffer flips it, leaves every other, and notes whether it was 1. -/
theorem cell_blitCell (st : Blit) (r c r' c' : Nat) (hr : r < 32) (hc : c < 64) :
    (blitCell st r c).1.cell r' c' = (if r' = r ∧ c' = c then !st.1.cell r' c' else st.1.cell r' c') := by
  rw [blitCell, Screen.cell_setCell _ _ _ _ _ _ hr hc]
  split
  · rename_i h; rw [h.1, h.2]
  · rfl

@[simp] theorem blitCell_flag (st : Blit) (r c : Nat) :
    (blitCell st r c).2 = (st.2 || st.1.cell r c) := rfl

end Sys2Proof.Machine
end

