-- ==== Sys2Proof/Laws/Memory.lean ====
section
/-! SUPPORT. Memory: a read after a write, and that every operation keeps the canonical form. -/

namespace Sys2Proof.Machine

/-! ### One byte -/

theorem Memory.read_entry_append (m : Memory) (a c : Nat) (b : Byte) (h : Memory.read m a = Memory.background a) :
    Memory.read (Memory.entry a b ++ m) c = if c = a then b else Memory.read m c := by
  unfold Memory.entry
  by_cases hb : b = Memory.background a
  · by_cases hc : c = a
    · subst hc; simp [hb, h]
    · simp [hb, hc]
  · simp [hb, Memory.read]

/-- Below the least listed address everything reads as its background. -/
theorem Memory.read_of_lt {m : Memory} {a : Nat} (h : ∀ c ∈ m, a < c.1) : Memory.read m a = Memory.background a := by
  induction m with
  | nil => rfl
  | cons c m ih =>
    obtain ⟨a', b⟩ := c
    have h1 : a < a' := h (a', b) (by simp)
    have h2 : a ≠ a' := by omega
    simp only [Memory.read, h2, if_false]
    exact ih fun c hc => h c (by simp [hc])

/-- A read after a write: the written byte at its address, every other byte as before. -/
theorem Memory.read_put {m : Memory} (hm : m.Pairwise fun c d => c.1 < d.1) (a c : Nat) (b : Byte) :
    Memory.read (Memory.put m a b) c = if c = a then b else Memory.read m c := by
  induction m with
  | nil =>
    have := Memory.read_entry_append [] a c b rfl
    simpa [Memory.put] using this
  | cons d m ih =>
    obtain ⟨a', b'⟩ := d
    obtain ⟨hd, hm'⟩ := List.pairwise_cons.1 hm
    simp only [Memory.put]
    split
    · rename_i hlt
      apply Memory.read_entry_append
      apply Memory.read_of_lt
      intro e he
      rcases List.mem_cons.1 he with rfl | he
      · exact hlt
      · exact Nat.lt_trans hlt (hd e he)
    · split
      · rename_i heq
        subst heq
        rw [Memory.read_entry_append _ _ _ _ (Memory.read_of_lt fun e he => hd e he)]
        simp only [Memory.read]
        split <;> rfl
      · rename_i hne
        simp only [Memory.read, ih hm']
        by_cases hc : c = a'
        · subst hc
          simp [show c ≠ a by omega]
        · simp [hc]

theorem Memory.mem_entry {a : Nat} {b : Byte} {c : Host.Cell} (h : c ∈ Memory.entry a b) :
    c = (a, b) ∧ b ≠ Memory.background a := by
  unfold Memory.entry at h
  split at h
  · simp at h
  · rename_i hb
    exact ⟨by simpa using h, hb⟩

theorem Memory.mem_put {m : Memory} {a : Nat} {b : Byte} {c : Host.Cell} (h : c ∈ Memory.put m a b) :
    c ∈ m ∨ c = (a, b) ∧ b ≠ Memory.background a := by
  induction m with
  | nil => exact .inr (Memory.mem_entry h)
  | cons d m ih =>
    simp only [Memory.put] at h
    split at h
    · rcases List.mem_append.1 h with h | h
      · exact .inr (Memory.mem_entry h)
      · exact .inl h
    · split at h
      · rcases List.mem_append.1 h with h | h
        · exact .inr (Memory.mem_entry h)
        · exact .inl (List.mem_cons_of_mem _ h)
      · rcases List.mem_cons.1 h with rfl | h
        · exact .inl (by simp)
        · rcases ih h with h | h
          · exact .inl (List.mem_cons_of_mem _ h)
          · exact .inr h

theorem Memory.pairwise_entry_append {m : Memory} {a : Nat} {b : Byte}
    (hm : m.Pairwise fun c d => c.1 < d.1) (h : ∀ c ∈ m, a < c.1) :
    (Memory.entry a b ++ m).Pairwise fun c d => c.1 < d.1 := by
  unfold Memory.entry
  split
  · exact hm
  · exact List.pairwise_cons.2 ⟨fun c hc => h c hc, hm⟩

theorem Memory.pairwise_put {m : Memory} (hm : m.Pairwise fun c d => c.1 < d.1) (a : Nat) (b : Byte) :
    (Memory.put m a b).Pairwise fun c d => c.1 < d.1 := by
  induction m with
  | nil =>
    have := Memory.pairwise_entry_append (a := a) (b := b) (m := []) .nil (by simp)
    simpa [Memory.put] using this
  | cons d m ih =>
    obtain ⟨hd, hm'⟩ := List.pairwise_cons.1 hm
    simp only [Memory.put]
    split
    · rename_i hlt
      apply Memory.pairwise_entry_append hm
      intro e he
      rcases List.mem_cons.1 he with rfl | he
      · exact hlt
      · exact Nat.lt_trans hlt (hd e he)
    · split
      · rename_i heq
        exact Memory.pairwise_entry_append hm' fun e he => heq ▸ hd e he
      · rename_i hnl hne
        refine List.pairwise_cons.2 ⟨fun e he => ?_, ih hm'⟩
        rcases Memory.mem_put he with he | ⟨rfl, -⟩
        · exact hd e he
        · show d.1 < a
          omega

/-- A write inside memory keeps the canonical form. -/
theorem Memory.put_wf {m : Memory} (hm : Memory.wf m) {a : Nat} (ha : a < memSize) (b : Byte) :
    Memory.wf (Memory.put m a b) := by
  refine ⟨Memory.pairwise_put hm.1 a b, fun c hc => ?_⟩
  rcases Memory.mem_put hc with hc | ⟨rfl, hb⟩
  · exact hm.2 c hc
  · exact ⟨ha, hb⟩

/-! ### Several bytes -/

/-- Writing bytes in turn inside memory keeps the canonical form. -/
theorem Memory.putAll_wf {m : Memory} (hm : Memory.wf m) {a : Nat} {bs : List Byte}
    (h : a + bs.length ≤ memSize) : Memory.wf (Memory.putAll m a bs) := by
  induction bs generalizing m a with
  | nil => exact hm
  | cons b bs ih =>
    simp only [List.length_cons] at h
    exact ih (Memory.put_wf hm (by omega) b) (by omega)

/-- A read after several writes: byte `c - a` inside, every other byte as before. -/
theorem Memory.read_putAll {m : Memory} (hm : m.Pairwise fun c d => c.1 < d.1) (a c : Nat) (bs : List Byte) :
    Memory.read (Memory.putAll m a bs) c =
      if a ≤ c ∧ c < a + bs.length then bs.getD (c - a) 0x00#8 else Memory.read m c := by
  induction bs generalizing m a with
  | nil =>
    have : ¬ (a ≤ c ∧ c < a) := by omega
    simp [Memory.putAll, this]
  | cons b bs ih =>
    rw [Memory.putAll, ih (Memory.pairwise_put hm a b), Memory.read_put hm]
    simp only [List.length_cons]
    by_cases hc : c = a
    · subst hc
      simp
    · by_cases hin : a + 1 ≤ c ∧ c < a + 1 + bs.length
      · obtain ⟨k, hk⟩ : ∃ k, c - a = k + 1 := ⟨c - a - 1, by omega⟩
        have hk' : c - (a + 1) = k := by omega
        have h2 : a ≤ c ∧ c < a + (bs.length + 1) := by omega
        simp [hin, h2, hk, hk']
      · have h2 : ¬ (a ≤ c ∧ c < a + (bs.length + 1)) := by omega
        simp only [hin, h2, hc, if_false]

theorem accessFits_iff {a n : Nat} : accessFits a n = true ↔ n = 0 ∨ a + n ≤ 4096 := by
  rw [accessFits, Bool.or_eq_true, decide_eq_true_iff, beq_iff_eq]
  exact Iff.rfl

/-- A read of several bytes answers unless it runs past memory. -/
theorem Memory.readBytes_some {m : Memory} {a n : Nat} (h : n = 0 ∨ a + n ≤ 4096) :
    Memory.readBytes m a n = some ((List.range n).map fun k => Memory.read m (a + k)) := by
  simp [Memory.readBytes, accessFits_iff.2 h]

theorem Memory.readBytes_none {m : Memory} {a n : Nat} (hn : 0 < n) (h : 4096 < a + n) :
    Memory.readBytes m a n = none := by
  have : accessFits a n = false := by
    rw [Bool.eq_false_iff]; intro hf; rcases accessFits_iff.1 hf with h' | h' <;> omega
  simp [Memory.readBytes, this]

theorem Memory.writeBytes_some {m : Memory} {a : Nat} {bs : List Byte} (h : a + bs.length ≤ 4096) :
    Memory.writeBytes m a bs = some (Memory.putAll m a bs) := by
  simp [Memory.writeBytes, accessFits_iff.2 (.inr h)]

theorem Memory.writeBytes_none {m : Memory} {a : Nat} {bs : List Byte} (hn : 0 < bs.length)
    (h : 4096 < a + bs.length) : Memory.writeBytes m a bs = none := by
  have : accessFits a bs.length = false := by
    rw [Bool.eq_false_iff]; intro hf; rcases accessFits_iff.1 hf with h' | h' <;> omega
  simp [Memory.writeBytes, this]

/-- A write that answers keeps the canonical form. -/
theorem Memory.writeBytes_wf {m m' : Memory} (hm : Memory.wf m) {a : Nat} {bs : List Byte}
    (h : Memory.writeBytes m a bs = some m') : Memory.wf m' := by
  unfold Memory.writeBytes at h
  split at h
  · rename_i hf
    cases h
    rcases accessFits_iff.1 hf with h0 | h0
    · simpa [List.length_eq_zero_iff.1 h0, Memory.putAll] using hm
    · exact Memory.putAll_wf hm h0
  · cases h

/-! ### Reset -/

theorem Memory.empty_wf : Memory.wf [] := ⟨.nil, by simp⟩

theorem State.reset_memory_wf : Memory.wf State.reset.mem := Memory.empty_wf

/-- The font copy of any `FONT` leaves memory canonical. -/
theorem State.resetWith_memory_wf (p : Config.Params) : Memory.wf (State.resetWith p).mem :=
  Memory.putAll_wf Memory.empty_wf (by simp [memSize])

end Sys2Proof.Machine
end

