-- ==== Sys2Proof/Laws/Registers.lean ====
section
/-! SUPPORT. The register file: what a write reads back as, the bulk transfers, and that the ALU's writes
touch the registers only. -/

namespace Sys2Proof.Machine

/-- Reading any register after a write to one. -/
theorem State.reg_setReg (s : State) (x y : Reg) (b : Byte) :
    (s.setReg x b).reg y = if y = x then b else s.reg y := by
  simp only [State.setReg, State.reg, Vector.getElem_set, BitVec.toNat_inj, eq_comm]

@[simp] theorem State.reg_setReg_same (s : State) (x : Reg) (b : Byte) : (s.setReg x b).reg x = b := by
  simp [State.reg_setReg]

theorem State.reg_setReg_of_ne (s : State) {x y : Reg} (b : Byte) (h : y ≠ x) :
    (s.setReg x b).reg y = s.reg y := by
  simp [State.reg_setReg, h]

/-- Two states with the same registers one by one have the same register file. -/
theorem State.v_ext {s t : State} (h : ∀ r, s.reg r = t.reg r) : s.v = t.v := by
  apply Vector.ext
  intro k hk
  have := h (BitVec.ofNat 4 k)
  simpa [State.reg, Nat.mod_eq_of_lt hk] using this

/-- The bulk write: register number `k + j` receives byte `j`. -/
theorem State.reg_setRegsFrom (s : State) (k : Nat) (bs : List Byte) (h : k + bs.length ≤ 16) (r : Reg) :
    (s.setRegsFrom k bs).reg r =
      if k ≤ r.toNat ∧ r.toNat < k + bs.length then bs.getD (r.toNat - k) 0x00#8 else s.reg r := by
  induction bs generalizing s k with
  | nil =>
    have : ¬ (k ≤ r.toNat ∧ r.toNat < k) := by omega
    simp [State.setRegsFrom, this]
  | cons b bs ih =>
    simp only [List.length_cons] at h
    rw [State.setRegsFrom, ih _ _ (by omega), State.reg_setReg]
    by_cases hr : r.toNat = k
    · have : r = BitVec.ofNat 4 k := by
        apply BitVec.eq_of_toNat_eq; simp; omega
      have h1 : ¬ (k + 1 ≤ r.toNat ∧ r.toNat < k + 1 + bs.length) := by omega
      have h2 : k ≤ r.toNat ∧ r.toNat < k + (b :: bs).length := by simp only [List.length_cons]; omega
      rw [if_neg h1, if_pos h2, if_pos this, hr]
      simp
    · have hne : r ≠ BitVec.ofNat 4 k := by
        intro e; apply hr; rw [e]; simp; omega
      by_cases hin : k + 1 ≤ r.toNat ∧ r.toNat < k + 1 + bs.length
      · have h2 : k ≤ r.toNat ∧ r.toNat < k + (b :: bs).length := by simp only [List.length_cons]; omega
        obtain ⟨m, hm⟩ : ∃ m, r.toNat - k = m + 1 := ⟨r.toNat - k - 1, by omega⟩
        have hm' : r.toNat - (k + 1) = m := by omega
        rw [if_pos hin, if_pos h2, hm, hm']
        simp
      · have h2 : ¬ (k ≤ r.toNat ∧ r.toNat < k + (b :: bs).length) := by
          simp only [List.length_cons]; omega
        rw [if_neg hin, if_neg h2, if_neg hne]

@[simp] theorem State.regsUpTo_length (s : State) (x : Reg) : (s.regsUpTo x).length = x.toNat + 1 := by
  simp [State.regsUpTo]

/-- Byte `k` of the bulk read is register number `k`. -/
theorem State.regsUpTo_getD (s : State) (x r : Reg) (h : r.toNat ≤ x.toNat) :
    (s.regsUpTo x).getD r.toNat 0x00#8 = s.reg r := by
  have : r.toNat < x.toNat + 1 := by omega
  simp [State.regsUpTo, List.getD_eq_getElem?_getD, this]

/-! ### The flag write and the ALU's order of writes touch registers only -/

@[simp] theorem State.setRegsFrom_i (s : State) (k : Nat) (bs : List Byte) : (s.setRegsFrom k bs).i = s.i := by
  induction bs generalizing s k with
  | nil => rfl
  | cons b bs ih => simp [State.setRegsFrom, ih]
@[simp] theorem State.setRegsFrom_pc (s : State) (k : Nat) (bs : List Byte) : (s.setRegsFrom k bs).pc = s.pc := by
  induction bs generalizing s k with
  | nil => rfl
  | cons b bs ih => simp [State.setRegsFrom, ih]
@[simp] theorem State.setRegsFrom_sp (s : State) (k : Nat) (bs : List Byte) : (s.setRegsFrom k bs).sp = s.sp := by
  induction bs generalizing s k with
  | nil => rfl
  | cons b bs ih => simp [State.setRegsFrom, ih]
@[simp] theorem State.setRegsFrom_stack (s : State) (k : Nat) (bs : List Byte) : (s.setRegsFrom k bs).stack = s.stack := by
  induction bs generalizing s k with
  | nil => rfl
  | cons b bs ih => simp [State.setRegsFrom, ih]
@[simp] theorem State.setRegsFrom_dt (s : State) (k : Nat) (bs : List Byte) : (s.setRegsFrom k bs).dt = s.dt := by
  induction bs generalizing s k with
  | nil => rfl
  | cons b bs ih => simp [State.setRegsFrom, ih]
@[simp] theorem State.setRegsFrom_st (s : State) (k : Nat) (bs : List Byte) : (s.setRegsFrom k bs).st = s.st := by
  induction bs generalizing s k with
  | nil => rfl
  | cons b bs ih => simp [State.setRegsFrom, ih]
@[simp] theorem State.setRegsFrom_mem (s : State) (k : Nat) (bs : List Byte) : (s.setRegsFrom k bs).mem = s.mem := by
  induction bs generalizing s k with
  | nil => rfl
  | cons b bs ih => simp [State.setRegsFrom, ih]
@[simp] theorem State.setRegsFrom_fb (s : State) (k : Nat) (bs : List Byte) : (s.setRegsFrom k bs).fb = s.fb := by
  induction bs generalizing s k with
  | nil => rfl
  | cons b bs ih => simp [State.setRegsFrom, ih]
@[simp] theorem State.setRegsFrom_dirty (s : State) (k : Nat) (bs : List Byte) : (s.setRegsFrom k bs).dirty = s.dirty := by
  induction bs generalizing s k with
  | nil => rfl
  | cons b bs ih => simp [State.setRegsFrom, ih]
@[simp] theorem State.setRegsFrom_collision (s : State) (k : Nat) (bs : List Byte) : (s.setRegsFrom k bs).collision = s.collision := by
  induction bs generalizing s k with
  | nil => rfl
  | cons b bs ih => simp [State.setRegsFrom, ih]
@[simp] theorem State.setRegsFrom_status (s : State) (k : Nat) (bs : List Byte) : (s.setRegsFrom k bs).status = s.status := by
  induction bs generalizing s k with
  | nil => rfl
  | cons b bs ih => simp [State.setRegsFrom, ih]
@[simp] theorem State.setRegsFrom_faultCode (s : State) (k : Nat) (bs : List Byte) : (s.setRegsFrom k bs).faultCode = s.faultCode := by
  induction bs generalizing s k with
  | nil => rfl
  | cons b bs ih => simp [State.setRegsFrom, ih]
@[simp] theorem State.setRegsFrom_faultPc (s : State) (k : Nat) (bs : List Byte) : (s.setRegsFrom k bs).faultPc = s.faultPc := by
  induction bs generalizing s k with
  | nil => rfl
  | cons b bs ih => simp [State.setRegsFrom, ih]
@[simp] theorem State.setRegsFrom_faultInfo (s : State) (k : Nat) (bs : List Byte) : (s.setRegsFrom k bs).faultInfo = s.faultInfo := by
  induction bs generalizing s k with
  | nil => rfl
  | cons b bs ih => simp [State.setRegsFrom, ih]
@[simp] theorem State.setRegsFrom_hold (s : State) (k : Nat) (bs : List Byte) : (s.setRegsFrom k bs).hold = s.hold := by
  induction bs generalizing s k with
  | nil => rfl
  | cons b bs ih => simp [State.setRegsFrom, ih]
@[simp] theorem State.setRegsFrom_resp (s : State) (k : Nat) (bs : List Byte) : (s.setRegsFrom k bs).resp = s.resp := by
  induction bs generalizing s k with
  | nil => rfl
  | cons b bs ih => simp [State.setRegsFrom, ih]
@[simp] theorem State.setRegsFrom_loadOpen (s : State) (k : Nat) (bs : List Byte) : (s.setRegsFrom k bs).loadOpen = s.loadOpen := by
  induction bs generalizing s k with
  | nil => rfl
  | cons b bs ih => simp [State.setRegsFrom, ih]
@[simp] theorem State.setRegsFrom_params (s : State) (k : Nat) (bs : List Byte) : (s.setRegsFrom k bs).params = s.params := by
  induction bs generalizing s k with
  | nil => rfl
  | cons b bs ih => simp [State.setRegsFrom, ih]
@[simp] theorem State.setRegsFrom_running (s : State) (k : Nat) (bs : List Byte) : (s.setRegsFrom k bs).running = s.running := by
  induction bs generalizing s k with
  | nil => rfl
  | cons b bs ih => simp [State.setRegsFrom, ih]
@[simp] theorem State.setRegsFrom_keyPoll (s : State) (k : Nat) (bs : List Byte) : (s.setRegsFrom k bs).keyPoll = s.keyPoll := by
  induction bs generalizing s k with
  | nil => rfl
  | cons b bs ih => simp [State.setRegsFrom, ih]
@[simp] theorem State.setRegsFrom_keyWait (s : State) (k : Nat) (bs : List Byte) : (s.setRegsFrom k bs).keyWait = s.keyWait := by
  induction bs generalizing s k with
  | nil => rfl
  | cons b bs ih => simp [State.setRegsFrom, ih]
@[simp] theorem State.setRegsFrom_rng (s : State) (k : Nat) (bs : List Byte) : (s.setRegsFrom k bs).rng = s.rng := by
  induction bs generalizing s k with
  | nil => rfl
  | cons b bs ih => simp [State.setRegsFrom, ih]

@[simp] theorem State.writeFlag_i (s : State) (o : Option Bool) : (s.writeFlag o).i = s.i := by cases o <;> rfl
@[simp] theorem State.writeFlag_pc (s : State) (o : Option Bool) : (s.writeFlag o).pc = s.pc := by cases o <;> rfl
@[simp] theorem State.writeFlag_sp (s : State) (o : Option Bool) : (s.writeFlag o).sp = s.sp := by cases o <;> rfl
@[simp] theorem State.writeFlag_stack (s : State) (o : Option Bool) : (s.writeFlag o).stack = s.stack := by cases o <;> rfl
@[simp] theorem State.writeFlag_dt (s : State) (o : Option Bool) : (s.writeFlag o).dt = s.dt := by cases o <;> rfl
@[simp] theorem State.writeFlag_st (s : State) (o : Option Bool) : (s.writeFlag o).st = s.st := by cases o <;> rfl
@[simp] theorem State.writeFlag_mem (s : State) (o : Option Bool) : (s.writeFlag o).mem = s.mem := by cases o <;> rfl
@[simp] theorem State.writeFlag_fb (s : State) (o : Option Bool) : (s.writeFlag o).fb = s.fb := by cases o <;> rfl
@[simp] theorem State.writeFlag_dirty (s : State) (o : Option Bool) : (s.writeFlag o).dirty = s.dirty := by cases o <;> rfl
@[simp] theorem State.writeFlag_collision (s : State) (o : Option Bool) : (s.writeFlag o).collision = s.collision := by cases o <;> rfl
@[simp] theorem State.writeFlag_status (s : State) (o : Option Bool) : (s.writeFlag o).status = s.status := by cases o <;> rfl
@[simp] theorem State.writeFlag_faultCode (s : State) (o : Option Bool) : (s.writeFlag o).faultCode = s.faultCode := by cases o <;> rfl
@[simp] theorem State.writeFlag_faultPc (s : State) (o : Option Bool) : (s.writeFlag o).faultPc = s.faultPc := by cases o <;> rfl
@[simp] theorem State.writeFlag_faultInfo (s : State) (o : Option Bool) : (s.writeFlag o).faultInfo = s.faultInfo := by cases o <;> rfl
@[simp] theorem State.writeFlag_hold (s : State) (o : Option Bool) : (s.writeFlag o).hold = s.hold := by cases o <;> rfl
@[simp] theorem State.writeFlag_resp (s : State) (o : Option Bool) : (s.writeFlag o).resp = s.resp := by cases o <;> rfl
@[simp] theorem State.writeFlag_loadOpen (s : State) (o : Option Bool) : (s.writeFlag o).loadOpen = s.loadOpen := by cases o <;> rfl
@[simp] theorem State.writeFlag_params (s : State) (o : Option Bool) : (s.writeFlag o).params = s.params := by cases o <;> rfl
@[simp] theorem State.writeFlag_running (s : State) (o : Option Bool) : (s.writeFlag o).running = s.running := by cases o <;> rfl
@[simp] theorem State.writeFlag_keyPoll (s : State) (o : Option Bool) : (s.writeFlag o).keyPoll = s.keyPoll := by cases o <;> rfl
@[simp] theorem State.writeFlag_keyWait (s : State) (o : Option Bool) : (s.writeFlag o).keyWait = s.keyWait := by cases o <;> rfl
@[simp] theorem State.writeFlag_rng (s : State) (o : Option Bool) : (s.writeFlag o).rng = s.rng := by cases o <;> rfl

@[simp] theorem State.aluFlagLast_i (s : State) (op : AluOp) (x : Reg) (b : Byte) : (s.aluFlagLast op x b).i = s.i := by simp [State.aluFlagLast]
@[simp] theorem State.aluFlagLast_pc (s : State) (op : AluOp) (x : Reg) (b : Byte) : (s.aluFlagLast op x b).pc = s.pc := by simp [State.aluFlagLast]
@[simp] theorem State.aluFlagLast_sp (s : State) (op : AluOp) (x : Reg) (b : Byte) : (s.aluFlagLast op x b).sp = s.sp := by simp [State.aluFlagLast]
@[simp] theorem State.aluFlagLast_stack (s : State) (op : AluOp) (x : Reg) (b : Byte) : (s.aluFlagLast op x b).stack = s.stack := by simp [State.aluFlagLast]
@[simp] theorem State.aluFlagLast_dt (s : State) (op : AluOp) (x : Reg) (b : Byte) : (s.aluFlagLast op x b).dt = s.dt := by simp [State.aluFlagLast]
@[simp] theorem State.aluFlagLast_st (s : State) (op : AluOp) (x : Reg) (b : Byte) : (s.aluFlagLast op x b).st = s.st := by simp [State.aluFlagLast]
@[simp] theorem State.aluFlagLast_mem (s : State) (op : AluOp) (x : Reg) (b : Byte) : (s.aluFlagLast op x b).mem = s.mem := by simp [State.aluFlagLast]
@[simp] theorem State.aluFlagLast_fb (s : State) (op : AluOp) (x : Reg) (b : Byte) : (s.aluFlagLast op x b).fb = s.fb := by simp [State.aluFlagLast]
@[simp] theorem State.aluFlagLast_dirty (s : State) (op : AluOp) (x : Reg) (b : Byte) : (s.aluFlagLast op x b).dirty = s.dirty := by simp [State.aluFlagLast]
@[simp] theorem State.aluFlagLast_collision (s : State) (op : AluOp) (x : Reg) (b : Byte) : (s.aluFlagLast op x b).collision = s.collision := by simp [State.aluFlagLast]
@[simp] theorem State.aluFlagLast_status (s : State) (op : AluOp) (x : Reg) (b : Byte) : (s.aluFlagLast op x b).status = s.status := by simp [State.aluFlagLast]
@[simp] theorem State.aluFlagLast_faultCode (s : State) (op : AluOp) (x : Reg) (b : Byte) : (s.aluFlagLast op x b).faultCode = s.faultCode := by simp [State.aluFlagLast]
@[simp] theorem State.aluFlagLast_faultPc (s : State) (op : AluOp) (x : Reg) (b : Byte) : (s.aluFlagLast op x b).faultPc = s.faultPc := by simp [State.aluFlagLast]
@[simp] theorem State.aluFlagLast_faultInfo (s : State) (op : AluOp) (x : Reg) (b : Byte) : (s.aluFlagLast op x b).faultInfo = s.faultInfo := by simp [State.aluFlagLast]
@[simp] theorem State.aluFlagLast_hold (s : State) (op : AluOp) (x : Reg) (b : Byte) : (s.aluFlagLast op x b).hold = s.hold := by simp [State.aluFlagLast]
@[simp] theorem State.aluFlagLast_resp (s : State) (op : AluOp) (x : Reg) (b : Byte) : (s.aluFlagLast op x b).resp = s.resp := by simp [State.aluFlagLast]
@[simp] theorem State.aluFlagLast_loadOpen (s : State) (op : AluOp) (x : Reg) (b : Byte) : (s.aluFlagLast op x b).loadOpen = s.loadOpen := by simp [State.aluFlagLast]
@[simp] theorem State.aluFlagLast_params (s : State) (op : AluOp) (x : Reg) (b : Byte) : (s.aluFlagLast op x b).params = s.params := by simp [State.aluFlagLast]
@[simp] theorem State.aluFlagLast_running (s : State) (op : AluOp) (x : Reg) (b : Byte) : (s.aluFlagLast op x b).running = s.running := by simp [State.aluFlagLast]
@[simp] theorem State.aluFlagLast_keyPoll (s : State) (op : AluOp) (x : Reg) (b : Byte) : (s.aluFlagLast op x b).keyPoll = s.keyPoll := by simp [State.aluFlagLast]
@[simp] theorem State.aluFlagLast_keyWait (s : State) (op : AluOp) (x : Reg) (b : Byte) : (s.aluFlagLast op x b).keyWait = s.keyWait := by simp [State.aluFlagLast]
@[simp] theorem State.aluFlagLast_rng (s : State) (op : AluOp) (x : Reg) (b : Byte) : (s.aluFlagLast op x b).rng = s.rng := by simp [State.aluFlagLast]

@[simp] theorem State.resultSource_i (s : State) (op : AluOp) (x : Reg) (g : State → Byte) : (s.resultSource op x g).i = s.i := by
  unfold State.resultSource; split <;> simp
@[simp] theorem State.resultSource_pc (s : State) (op : AluOp) (x : Reg) (g : State → Byte) : (s.resultSource op x g).pc = s.pc := by
  unfold State.resultSource; split <;> simp
@[simp] theorem State.resultSource_sp (s : State) (op : AluOp) (x : Reg) (g : State → Byte) : (s.resultSource op x g).sp = s.sp := by
  unfold State.resultSource; split <;> simp
@[simp] theorem State.resultSource_stack (s : State) (op : AluOp) (x : Reg) (g : State → Byte) : (s.resultSource op x g).stack = s.stack := by
  unfold State.resultSource; split <;> simp
@[simp] theorem State.resultSource_dt (s : State) (op : AluOp) (x : Reg) (g : State → Byte) : (s.resultSource op x g).dt = s.dt := by
  unfold State.resultSource; split <;> simp
@[simp] theorem State.resultSource_st (s : State) (op : AluOp) (x : Reg) (g : State → Byte) : (s.resultSource op x g).st = s.st := by
  unfold State.resultSource; split <;> simp
@[simp] theorem State.resultSource_mem (s : State) (op : AluOp) (x : Reg) (g : State → Byte) : (s.resultSource op x g).mem = s.mem := by
  unfold State.resultSource; split <;> simp
@[simp] theorem State.resultSource_fb (s : State) (op : AluOp) (x : Reg) (g : State → Byte) : (s.resultSource op x g).fb = s.fb := by
  unfold State.resultSource; split <;> simp
@[simp] theorem State.resultSource_dirty (s : State) (op : AluOp) (x : Reg) (g : State → Byte) : (s.resultSource op x g).dirty = s.dirty := by
  unfold State.resultSource; split <;> simp
@[simp] theorem State.resultSource_collision (s : State) (op : AluOp) (x : Reg) (g : State → Byte) : (s.resultSource op x g).collision = s.collision := by
  unfold State.resultSource; split <;> simp
@[simp] theorem State.resultSource_status (s : State) (op : AluOp) (x : Reg) (g : State → Byte) : (s.resultSource op x g).status = s.status := by
  unfold State.resultSource; split <;> simp
@[simp] theorem State.resultSource_faultCode (s : State) (op : AluOp) (x : Reg) (g : State → Byte) : (s.resultSource op x g).faultCode = s.faultCode := by
  unfold State.resultSource; split <;> simp
@[simp] theorem State.resultSource_faultPc (s : State) (op : AluOp) (x : Reg) (g : State → Byte) : (s.resultSource op x g).faultPc = s.faultPc := by
  unfold State.resultSource; split <;> simp
@[simp] theorem State.resultSource_faultInfo (s : State) (op : AluOp) (x : Reg) (g : State → Byte) : (s.resultSource op x g).faultInfo = s.faultInfo := by
  unfold State.resultSource; split <;> simp
@[simp] theorem State.resultSource_hold (s : State) (op : AluOp) (x : Reg) (g : State → Byte) : (s.resultSource op x g).hold = s.hold := by
  unfold State.resultSource; split <;> simp
@[simp] theorem State.resultSource_resp (s : State) (op : AluOp) (x : Reg) (g : State → Byte) : (s.resultSource op x g).resp = s.resp := by
  unfold State.resultSource; split <;> simp
@[simp] theorem State.resultSource_loadOpen (s : State) (op : AluOp) (x : Reg) (g : State → Byte) : (s.resultSource op x g).loadOpen = s.loadOpen := by
  unfold State.resultSource; split <;> simp
@[simp] theorem State.resultSource_params (s : State) (op : AluOp) (x : Reg) (g : State → Byte) : (s.resultSource op x g).params = s.params := by
  unfold State.resultSource; split <;> simp
@[simp] theorem State.resultSource_running (s : State) (op : AluOp) (x : Reg) (g : State → Byte) : (s.resultSource op x g).running = s.running := by
  unfold State.resultSource; split <;> simp
@[simp] theorem State.resultSource_keyPoll (s : State) (op : AluOp) (x : Reg) (g : State → Byte) : (s.resultSource op x g).keyPoll = s.keyPoll := by
  unfold State.resultSource; split <;> simp
@[simp] theorem State.resultSource_keyWait (s : State) (op : AluOp) (x : Reg) (g : State → Byte) : (s.resultSource op x g).keyWait = s.keyWait := by
  unfold State.resultSource; split <;> simp
@[simp] theorem State.resultSource_rng (s : State) (op : AluOp) (x : Reg) (g : State → Byte) : (s.resultSource op x g).rng = s.rng := by
  unfold State.resultSource; split <;> simp

@[simp] theorem State.aluFlagged_i (s : State) (op : AluOp) (x : Reg) (g : State → Byte) : (s.aluFlagged op x g).i = s.i := by
  unfold State.aluFlagged; split <;> simp
@[simp] theorem State.aluFlagged_pc (s : State) (op : AluOp) (x : Reg) (g : State → Byte) : (s.aluFlagged op x g).pc = s.pc := by
  unfold State.aluFlagged; split <;> simp
@[simp] theorem State.aluFlagged_sp (s : State) (op : AluOp) (x : Reg) (g : State → Byte) : (s.aluFlagged op x g).sp = s.sp := by
  unfold State.aluFlagged; split <;> simp
@[simp] theorem State.aluFlagged_stack (s : State) (op : AluOp) (x : Reg) (g : State → Byte) : (s.aluFlagged op x g).stack = s.stack := by
  unfold State.aluFlagged; split <;> simp
@[simp] theorem State.aluFlagged_dt (s : State) (op : AluOp) (x : Reg) (g : State → Byte) : (s.aluFlagged op x g).dt = s.dt := by
  unfold State.aluFlagged; split <;> simp
@[simp] theorem State.aluFlagged_st (s : State) (op : AluOp) (x : Reg) (g : State → Byte) : (s.aluFlagged op x g).st = s.st := by
  unfold State.aluFlagged; split <;> simp
@[simp] theorem State.aluFlagged_mem (s : State) (op : AluOp) (x : Reg) (g : State → Byte) : (s.aluFlagged op x g).mem = s.mem := by
  unfold State.aluFlagged; split <;> simp
@[simp] theorem State.aluFlagged_fb (s : State) (op : AluOp) (x : Reg) (g : State → Byte) : (s.aluFlagged op x g).fb = s.fb := by
  unfold State.aluFlagged; split <;> simp
@[simp] theorem State.aluFlagged_dirty (s : State) (op : AluOp) (x : Reg) (g : State → Byte) : (s.aluFlagged op x g).dirty = s.dirty := by
  unfold State.aluFlagged; split <;> simp
@[simp] theorem State.aluFlagged_collision (s : State) (op : AluOp) (x : Reg) (g : State → Byte) : (s.aluFlagged op x g).collision = s.collision := by
  unfold State.aluFlagged; split <;> simp
@[simp] theorem State.aluFlagged_status (s : State) (op : AluOp) (x : Reg) (g : State → Byte) : (s.aluFlagged op x g).status = s.status := by
  unfold State.aluFlagged; split <;> simp
@[simp] theorem State.aluFlagged_faultCode (s : State) (op : AluOp) (x : Reg) (g : State → Byte) : (s.aluFlagged op x g).faultCode = s.faultCode := by
  unfold State.aluFlagged; split <;> simp
@[simp] theorem State.aluFlagged_faultPc (s : State) (op : AluOp) (x : Reg) (g : State → Byte) : (s.aluFlagged op x g).faultPc = s.faultPc := by
  unfold State.aluFlagged; split <;> simp
@[simp] theorem State.aluFlagged_faultInfo (s : State) (op : AluOp) (x : Reg) (g : State → Byte) : (s.aluFlagged op x g).faultInfo = s.faultInfo := by
  unfold State.aluFlagged; split <;> simp
@[simp] theorem State.aluFlagged_hold (s : State) (op : AluOp) (x : Reg) (g : State → Byte) : (s.aluFlagged op x g).hold = s.hold := by
  unfold State.aluFlagged; split <;> simp
@[simp] theorem State.aluFlagged_resp (s : State) (op : AluOp) (x : Reg) (g : State → Byte) : (s.aluFlagged op x g).resp = s.resp := by
  unfold State.aluFlagged; split <;> simp
@[simp] theorem State.aluFlagged_loadOpen (s : State) (op : AluOp) (x : Reg) (g : State → Byte) : (s.aluFlagged op x g).loadOpen = s.loadOpen := by
  unfold State.aluFlagged; split <;> simp
@[simp] theorem State.aluFlagged_params (s : State) (op : AluOp) (x : Reg) (g : State → Byte) : (s.aluFlagged op x g).params = s.params := by
  unfold State.aluFlagged; split <;> simp
@[simp] theorem State.aluFlagged_running (s : State) (op : AluOp) (x : Reg) (g : State → Byte) : (s.aluFlagged op x g).running = s.running := by
  unfold State.aluFlagged; split <;> simp
@[simp] theorem State.aluFlagged_keyPoll (s : State) (op : AluOp) (x : Reg) (g : State → Byte) : (s.aluFlagged op x g).keyPoll = s.keyPoll := by
  unfold State.aluFlagged; split <;> simp
@[simp] theorem State.aluFlagged_keyWait (s : State) (op : AluOp) (x : Reg) (g : State → Byte) : (s.aluFlagged op x g).keyWait = s.keyWait := by
  unfold State.aluFlagged; split <;> simp
@[simp] theorem State.aluFlagged_rng (s : State) (op : AluOp) (x : Reg) (g : State → Byte) : (s.aluFlagged op x g).rng = s.rng := by
  unfold State.aluFlagged; split <;> simp

/-- A flag is written to VF and nowhere else. -/
theorem State.reg_writeFlag (s : State) (o : Option Bool) (r : Reg) :
    (s.writeFlag o).reg r =
      match o with
      | none => s.reg r
      | some f => if r = vf then flagByte f else s.reg r := by
  cases o <;> simp [State.writeFlag, State.reg_setReg]

/-- Result then flag: the flag wins where x is VF. -/
theorem State.reg_aluFlagLast (s : State) (op : AluOp) (x : Reg) (b : Byte) (r : Reg) :
    (s.aluFlagLast op x b).reg r =
      match (s.alu op (s.reg x) b).flag with
      | none => if r = x then (s.alu op (s.reg x) b).result else s.reg r
      | some f => if r = vf then flagByte f
        else if r = x then (s.alu op (s.reg x) b).result else s.reg r := by
  simp only [State.aluFlagLast, State.reg_writeFlag]
  split <;> simp only [State.reg_setReg]

@[simp] theorem State.alu_eq (s : State) (op : AluOp) (a b : Byte) :
    s.alu op a b = Machine.alu s.params.addClearsVf op a b := rfl

/-- `sequential`: the flag first, then the result from the registers as they are now. -/
theorem State.reg_aluFlagged_sequential (s : State) (op : AluOp) (x : Reg) (g : State → Byte) (r : Reg)
    (h : s.params.vfOrder = .sequential) :
    (s.aluFlagged op x g).reg r =
      if r = x then
        ((s.writeFlag (s.alu op (s.reg x) (g s)).flag).alu op
          ((s.writeFlag (s.alu op (s.reg x) (g s)).flag).reg x)
          (g (s.writeFlag (s.alu op (s.reg x) (g s)).flag))).result
      else (s.writeFlag (s.alu op (s.reg x) (g s)).flag).reg r := by
  simp only [State.aluFlagged, State.resultSource, h, State.reg_setReg]

/-- `latched`: result then flag, both from the values before. -/
theorem State.aluFlagged_latched (s : State) (op : AluOp) (x : Reg) (g : State → Byte)
    (h : s.params.vfOrder = .latched) : s.aluFlagged op x g = s.aluFlagLast op x (g s) := by
  simp only [State.aluFlagged, h]

end Sys2Proof.Machine
end

