-- ==== Sys2Proof/Laws/Cycle.lean ====
section
/-! SUPPORT. What the shared operations of a cycle can do, said once: the key wait, the store at I, the
draw, the fetch, and the cycle itself. -/

namespace Sys2Proof.Machine

/-- The key wait either keeps the cycle open or completes it. -/
theorem State.awaitKey_cases (s : State) (w : KeyWait) :
    (s.keyEvent = none ∧
      s.awaitKey w = { s.drawKeyEvent with hold := some w, resp := none, loadOpen := false }) ∨
    ∃ k, s.keyEvent = some k ∧
      s.awaitKey w = ({ s.drawKeyEvent with hold := none }.setReg w.x (k.zeroExtend 8)).endCycle
        (keyWaitNextPc s.params.fx0aPc w.pc) := by
  unfold State.awaitKey
  cases h : s.keyEvent with
  | none => exact .inl ⟨rfl, rfl⟩
  | some k => exact .inr ⟨k, rfl, rfl⟩

/-- A store at I either fits and completes the cycle, or faults with memory as it was. -/
theorem State.storeAtIndex_cases (s : State) (bytes : List Byte) (hb : 0 < bytes.length) :
    (s.i.toNat + bytes.length ≤ 4096 ∧
      s.storeAtIndex bytes = { s with mem := Memory.putAll s.mem s.i.toNat bytes }.endNext) ∨
    (4096 < s.i.toNat + bytes.length ∧ s.storeAtIndex bytes = s.raise .memoryOutOfBounds s.i) := by
  by_cases h : s.i.toNat + bytes.length ≤ 4096
  · exact .inl ⟨h, by simp [State.storeAtIndex, State.indexAddr, Memory.writeBytes_some h]⟩
  · have h' : 4096 < s.i.toNat + bytes.length := by omega
    exact .inr ⟨h', by simp [State.storeAtIndex, State.indexAddr, Memory.writeBytes_none hb h']⟩

/-- A draw either blits the bytes at I and completes the cycle, or faults with everything as it was. -/
theorem execDraw_cases (x y : Reg) (n : Nibble) (s : State) :
    ((n.toNat = 0 ∨ s.i.toNat + n.toNat ≤ 4096) ∧
      execDraw x y n s = .next (s.blit ((List.range n.toNat).map fun k => Memory.read s.mem (s.i.toNat + k))
        (s.reg x) (s.reg y)).endNext) ∨
    (0 < n.toNat ∧ 4096 < s.i.toNat + n.toNat ∧ execDraw x y n s = .next (s.raise .memoryOutOfBounds s.i)) := by
  by_cases h : n.toNat = 0 ∨ s.i.toNat + n.toNat ≤ 4096
  · exact .inl ⟨h, by simp only [execDraw, State.indexAddr, Memory.readBytes_some h]⟩
  · have hn : 0 < n.toNat := by omega
    have ho : 4096 < s.i.toNat + n.toNat := by omega
    exact .inr ⟨hn, ho, by simp only [execDraw, State.indexAddr, Memory.readBytes_none hn ho]⟩

/-- A fetch inside memory gives the two bytes at pc, the first one high. -/
theorem State.fetchWord_some {s : State} (h : s.pc.toNat ≤ 0xFFE) :
    s.fetchWord = some (Memory.read s.mem s.pc.toNat ++ Memory.read s.mem (s.pc.toNat + 1)) := by
  rw [State.fetchWord, Memory.readBytes_some (.inr (by omega))]
  rfl

/-- A fetch that would leave memory gives nothing. -/
theorem State.fetchWord_none {s : State} (h : 0xFFE < s.pc.toNat) : s.fetchWord = none := by
  rw [State.fetchWord, Memory.readBytes_none (by omega) (by omega)]

theorem State.fetchWord_eq_some {s : State} {w : Word} (h : s.fetchWord = some w) :
    s.pc.toNat ≤ 0xFFE ∧ w = Memory.read s.mem s.pc.toNat ++ Memory.read s.mem (s.pc.toNat + 1) := by
  by_cases hp : s.pc.toNat ≤ 0xFFE
  · rw [State.fetchWord_some hp] at h
    exact ⟨hp, (Option.some.inj h).symm⟩
  · rw [State.fetchWord_none (by omega)] at h
    cases h

@[simp] theorem State.drawRunning_fetchWord (s : State) : s.drawRunning.fetchWord = s.fetchWord := rfl

/-- Everything a step can do: repeat the recorded fault, look at the key source, answer `Halted`, fault at
the fetch or at the decode, or run the decoded instruction. -/
theorem step_cases {s t : State} (h : step s = .next t) :
    (s.status = .fault ∧ t = s.repeatFault) ∨
    (s.status = .run ∧ ∃ w, s.hold = some w ∧ t = s.awaitKey w) ∨
    (s.status = .run ∧ s.hold = none ∧ s.runningNow = false ∧ t = s.drawRunning.halt) ∨
    (Ready s ∧ s.fetchWord = none ∧ t = s.drawRunning.raise .memoryOutOfBounds s.pc) ∨
    (Ready s ∧ ∃ w e, s.fetchWord = some w ∧ decodeWord s.params.strict59 w = .unknownOpcode e ∧
      t = s.drawRunning.raise .decodeError e) ∨
    (Ready s ∧ ∃ w i, s.fetchWord = some w ∧ decodeWord s.params.strict59 w = .instr i ∧
      exec i s.drawRunning = .next t) := by
  unfold step cycle at h
  cases hs : s.status with
  | fault => simp only [hs] at h; cases h; exact .inl ⟨rfl, rfl⟩
  | run =>
    simp only [hs] at h
    refine .inr ?_
    cases hh : s.hold with
    | some w => simp only [hh] at h; cases h; exact .inl ⟨rfl, w, rfl, rfl⟩
    | none =>
      simp only [hh] at h
      refine .inr ?_
      cases hr : s.runningNow with
      | false => simp only [hr] at h; cases h; exact .inl ⟨rfl, rfl, rfl, rfl⟩
      | true =>
        simp only [hr, if_true, State.runCycle, State.drawRunning_fetchWord, State.drawRunning_params] at h
        have hready : Ready s := ⟨hs, hh, hr⟩
        refine .inr ?_
        cases hf : s.fetchWord with
        | none => simp only [hf] at h; cases h; exact .inl ⟨hready, rfl, rfl⟩
        | some w =>
          simp only [hf] at h
          refine .inr ?_
          cases hd : decodeWord s.params.strict59 w with
          | unknownOpcode e => simp only [hd] at h; cases h; exact .inl ⟨hready, w, e, rfl, hd, rfl⟩
          | instr i => simp only [hd] at h; exact .inr ⟨hready, w, i, rfl, hd, h⟩

/-- A run whose first step goes on, of any machine. -/
theorem run_succ_of_next (M : Host.Core) {s t : M.State} (h : M.step s = .next t) (k : Nat) :
    M.run (k + 1) s = M.run k t := by
  show (match M.step s with
    | .next s' => M.run k s'
    | .fault r => .fault r
    | .refused r => .refused r) = _
  rw [h]

/-- A ready engine whose word decodes runs it. -/
theorem step_of_decoded {s : State} {w : Word} {i : Instr} (hr : Ready s) (hf : s.fetchWord = some w)
    (hd : decodeWord s.params.strict59 w = .instr i) : step s = exec i s.drawRunning := by
  obtain ⟨h1, h2, h3⟩ := hr
  simp only [step, cycle, h1, h2, h3, if_true, State.runCycle, State.drawRunning_fetchWord,
    State.drawRunning_params, hf, hd]

/-- One timer step on numbers. -/
theorem timerStep_toNat (b : Byte) : (timerStep b).toNat = b.toNat - 1 := by
  unfold timerStep
  split
  · rename_i h; subst h; rfl
  · rename_i h
    have : b.toNat ≠ 0 := fun h0 => h (BitVec.eq_of_toNat_eq (by simpa using h0))
    have := b.isLt
    rw [BitVec.toNat_sub]; simp; omega

/-- The key conversion (R227) on numbers. -/
theorem keyOfByte_some {b : Byte} (h : b.toNat ≤ 0x0F) :
    ∃ k, keyOfByte b = some k ∧ k.toNat = b.toNat := by
  have hlt : ¬ (0x0F#8 < b) := by rw [BitVec.lt_def]; simp; omega
  exact ⟨_, by rw [keyOfByte, if_neg hlt], by simp; omega⟩

theorem keyOfByte_none {b : Byte} (h : 0x0F < b.toNat) : keyOfByte b = none := by
  have hlt : 0x0F#8 < b := by rw [BitVec.lt_def]; simpa using h
  rw [keyOfByte, if_pos hlt]

end Sys2Proof.Machine
end

