-- ==== Sys2Proof/Laws/Decode.lean ====
section
/-! SUPPORT. The fields of a word that is written out as its fields, for each of the three layouts of
30_encoding.md R71. -/

namespace Sys2Proof

/-- The bits of a word written as nibble and address. -/
theorem getLsbD_addr (op : Nibble) (a : Addr) (i : Nat) :
    (op ++ a : BitVec 16).getLsbD i = if i < 12 then a.getLsbD i else op.getLsbD (i - 12) :=
  BitVec.getLsbD_append

/-- The bits of a word written as nibble, register and byte. -/
theorem getLsbD_byte (op : Nibble) (x : Reg) (kk : Byte) (i : Nat) :
    (op ++ x ++ kk : BitVec 16).getLsbD i =
      if i < 8 then kk.getLsbD i else if i - 8 < 4 then x.getLsbD (i - 8) else op.getLsbD (i - 8 - 4) := by
  rw [show (op ++ x ++ kk : BitVec 16).getLsbD i = _ from BitVec.getLsbD_append]
  split
  · rfl
  · exact BitVec.getLsbD_append

/-- The bits of a word written as four nibbles. -/
theorem getLsbD_nibble (op : Nibble) (x y : Reg) (n : Nibble) (i : Nat) :
    (op ++ x ++ y ++ n : BitVec 16).getLsbD i =
      if i < 4 then n.getLsbD i else if i - 4 < 4 then y.getLsbD (i - 4)
      else if i - 4 - 4 < 4 then x.getLsbD (i - 4 - 4) else op.getLsbD (i - 4 - 4 - 4) := by
  rw [show (op ++ x ++ y ++ n : BitVec 16).getLsbD i = _ from BitVec.getLsbD_append]
  split
  · rfl
  · rw [show (op ++ x ++ y : BitVec 12).getLsbD (i - 4) = _ from BitVec.getLsbD_append]
    split
    · rfl
    · exact BitVec.getLsbD_append

section AddrLayout
variable (op : Nibble) (a : Addr)

@[simp] theorem fieldOp_addr : fieldOp (op ++ a : BitVec 16) = op := by
  apply BitVec.eq_of_getLsbD_eq; intro i hi
  have h : ¬ (12 + i < 12) := by omega
  simp [fieldOp, getLsbD_addr, hi, h]

@[simp] theorem fieldAddr_addr : fieldAddr (op ++ a : BitVec 16) = a := by
  apply BitVec.eq_of_getLsbD_eq; intro i hi
  simp [fieldAddr, getLsbD_addr, hi]

end AddrLayout

section ByteLayout
variable (op : Nibble) (x : Reg) (kk : Byte)

@[simp] theorem fieldOp_byte : fieldOp (op ++ x ++ kk : BitVec 16) = op := by
  apply BitVec.eq_of_getLsbD_eq; intro i hi
  have h : ¬ (12 + i < 8) := by omega
  have h' : ¬ (12 + i - 8 < 4) := by omega
  have h'' : 12 + i - 8 - 4 = i := by omega
  simp [fieldOp, getLsbD_byte, hi, h, h', h'']

@[simp] theorem fieldX_byte : fieldX (op ++ x ++ kk : BitVec 16) = x := by
  apply BitVec.eq_of_getLsbD_eq; intro i hi
  have h : ¬ (8 + i < 8) := by omega
  simp [fieldX, getLsbD_byte, hi, h]

@[simp] theorem fieldKk_byte : fieldKk (op ++ x ++ kk : BitVec 16) = kk := by
  apply BitVec.eq_of_getLsbD_eq; intro i hi
  simp [fieldKk, getLsbD_byte, hi]

end ByteLayout

section NibbleLayout
variable (op : Nibble) (x y : Reg) (n : Nibble)

@[simp] theorem fieldOp_nibble : fieldOp (op ++ x ++ y ++ n : BitVec 16) = op := by
  apply BitVec.eq_of_getLsbD_eq; intro i hi
  have h : ¬ (12 + i < 4) := by omega
  have h' : ¬ (12 + i - 4 < 4) := by omega
  have h'' : ¬ (12 + i - 4 - 4 < 4) := by omega
  have h3 : 12 + i - 4 - 4 - 4 = i := by omega
  simp [fieldOp, getLsbD_nibble, hi, h, h', h'', h3]

@[simp] theorem fieldX_nibble : fieldX (op ++ x ++ y ++ n : BitVec 16) = x := by
  apply BitVec.eq_of_getLsbD_eq; intro i hi
  have h : ¬ (8 + i < 4) := by omega
  have h' : ¬ (8 + i - 4 < 4) := by omega
  have h'' : 8 + i - 4 - 4 = i := by omega
  simp [fieldX, getLsbD_nibble, hi, h, h', h'']

@[simp] theorem fieldY_nibble : fieldY (op ++ x ++ y ++ n : BitVec 16) = y := by
  apply BitVec.eq_of_getLsbD_eq; intro i hi
  have h : ¬ (4 + i < 4) := by omega
  simp [fieldY, getLsbD_nibble, hi, h]

@[simp] theorem fieldN_nibble : fieldN (op ++ x ++ y ++ n : BitVec 16) = n := by
  apply BitVec.eq_of_getLsbD_eq; intro i hi
  simp [fieldN, getLsbD_nibble, hi]

end NibbleLayout

/-- A word is its two bytes in memory order. -/
@[simp] theorem wordOfBytes_bytesOfWord (w : Word) :
    wordOfBytes (w.extractLsb' 8 8) (w.extractLsb' 0 8) = w := by
  apply BitVec.eq_of_getLsbD_eq; intro i hi
  simp only [wordOfBytes, BitVec.getLsbD_append, BitVec.getLsbD_extractLsb']
  split
  · rename_i h; simp [h]
  · rename_i h
    have h1 : i - 8 < 8 := by omega
    have h2 : 8 + (i - 8) = i := by omega
    simp [h1, h2]

end Sys2Proof
end

