-- ==== Sys2Proof/Laws/PerInstr.lean ====
section
/-! SUPPORT. The family `TableRow`: every instruction's word matches a row of the opcode table that bears the
instruction's own variant id (30_encoding.md R86 and section 7). -/

namespace Sys2Proof.Laws.TableRow

/-- The encoded word of the instruction matches a table row of its own variant, under either
`STRICT_5_9`. -/
def Statement (i : Instr) : Prop :=
  ∀ strict, ∃ r ∈ opcodeTable, r.variant = i.variantId ∧ r.selects strict (encode i) = true

/-- A word under the mask of its top nibble. -/
theorem top_addr (op : Nibble) (a : Addr) : (op ++ a : BitVec 16) &&& 0xF000#16 = op ++ 0x000#12 := by
  apply BitVec.eq_of_getLsbD_eq; intro i hi
  rw [BitVec.getLsbD_and, getLsbD_addr, getLsbD_addr]
  interval_cases i <;> simp

theorem top_byte (op : Nibble) (x : Reg) (kk : Byte) :
    (op ++ x ++ kk : BitVec 16) &&& 0xF000#16 = op ++ 0x000#12 := by
  apply BitVec.eq_of_getLsbD_eq; intro i hi
  rw [BitVec.getLsbD_and, getLsbD_byte, getLsbD_addr]
  interval_cases i <;> simp

theorem top_nibble (op : Nibble) (x y : Reg) (n : Nibble) :
    (op ++ x ++ y ++ n : BitVec 16) &&& 0xF000#16 = op ++ 0x000#12 := by
  apply BitVec.eq_of_getLsbD_eq; intro i hi
  rw [BitVec.getLsbD_and, getLsbD_nibble, getLsbD_addr]
  interval_cases i <;> simp

/-- A word under the mask of its top nibble and n. -/
theorem ends_nibble (op : Nibble) (x y : Reg) (n : Nibble) :
    (op ++ x ++ y ++ n : BitVec 16) &&& 0xF00F#16 = op ++ 0x0#4 ++ 0x0#4 ++ n := by
  apply BitVec.eq_of_getLsbD_eq; intro i hi
  rw [BitVec.getLsbD_and, getLsbD_nibble, getLsbD_nibble]
  interval_cases i <;> simp

/-- A word under the mask of its top nibble and kk. -/
theorem ends_byte (op : Nibble) (x : Reg) (kk : Byte) :
    (op ++ x ++ kk : BitVec 16) &&& 0xF0FF#16 = op ++ 0x0#4 ++ kk := by
  apply BitVec.eq_of_getLsbD_eq; intro i hi
  rw [BitVec.getLsbD_and, getLsbD_byte, getLsbD_byte]
  interval_cases i <;> simp

/-- From a row of the table whose two masks both select the word. -/
theorem of_row {i : Instr} (r : OpcodeRow) (hr : r ∈ opcodeTable) (hv : r.variant = i.variantId)
    (h : encode i &&& r.mask = r.pattern) (h' : encode i &&& r.maskLoose = r.pattern) : Statement i := by
  intro strict
  refine ⟨r, hr, hv, ?_⟩
  cases strict
  · simpa [OpcodeRow.selects] using h'
  · simpa [OpcodeRow.selects] using h

theorem clearScreen : Statement .clearScreen :=
  of_row (opcodeRow 0x00E0 0xFFFF 0) (by decide) rfl (by decide) (by decide)
theorem ret : Statement .ret := of_row (opcodeRow 0x00EE 0xFFFF 1) (by decide) rfl (by decide) (by decide)
theorem jump (a : Addr) : Statement (.jump a) :=
  of_row (opcodeRow 0x1000 0xF000 2) (by decide) rfl (top_addr _ a) (top_addr _ a)
theorem call (a : Addr) : Statement (.call a) :=
  of_row (opcodeRow 0x2000 0xF000 3) (by decide) rfl (top_addr _ a) (top_addr _ a)
theorem skipEqualByte (x : Reg) (kk : Byte) : Statement (.skipEqualByte x kk) :=
  of_row (opcodeRow 0x3000 0xF000 4) (by decide) rfl (top_byte _ x kk) (top_byte _ x kk)
theorem skipNotEqualByte (x : Reg) (kk : Byte) : Statement (.skipNotEqualByte x kk) :=
  of_row (opcodeRow 0x4000 0xF000 5) (by decide) rfl (top_byte _ x kk) (top_byte _ x kk)
theorem skipEqualReg (x y : Reg) : Statement (.skipEqualReg x y) :=
  of_row ⟨0x5000, 0xF00F, 0xF000, 6⟩ (by decide) rfl (ends_nibble _ x y _) (top_nibble _ x y _)
theorem loadByte (x : Reg) (kk : Byte) : Statement (.loadByte x kk) :=
  of_row (opcodeRow 0x6000 0xF000 7) (by decide) rfl (top_byte _ x kk) (top_byte _ x kk)
theorem addByte (x : Reg) (kk : Byte) : Statement (.addByte x kk) :=
  of_row (opcodeRow 0x7000 0xF000 8) (by decide) rfl (top_byte _ x kk) (top_byte _ x kk)
theorem move (x y : Reg) : Statement (.move x y) :=
  of_row (opcodeRow 0x8000 0xF00F 9) (by decide) rfl (ends_nibble _ x y _) (ends_nibble _ x y _)
theorem or (x y : Reg) : Statement (.or x y) :=
  of_row (opcodeRow 0x8001 0xF00F 10) (by decide) rfl (ends_nibble _ x y _) (ends_nibble _ x y _)
theorem and (x y : Reg) : Statement (.and x y) :=
  of_row (opcodeRow 0x8002 0xF00F 11) (by decide) rfl (ends_nibble _ x y _) (ends_nibble _ x y _)
theorem xor (x y : Reg) : Statement (.xor x y) :=
  of_row (opcodeRow 0x8003 0xF00F 12) (by decide) rfl (ends_nibble _ x y _) (ends_nibble _ x y _)
theorem add (x y : Reg) : Statement (.add x y) :=
  of_row (opcodeRow 0x8004 0xF00F 13) (by decide) rfl (ends_nibble _ x y _) (ends_nibble _ x y _)
theorem sub (x y : Reg) : Statement (.sub x y) :=
  of_row (opcodeRow 0x8005 0xF00F 14) (by decide) rfl (ends_nibble _ x y _) (ends_nibble _ x y _)
theorem shr (x : Reg) : Statement (.shr x) :=
  of_row (opcodeRow 0x8006 0xF00F 15) (by decide) rfl (ends_nibble _ x _ _) (ends_nibble _ x _ _)
theorem subn (x y : Reg) : Statement (.subn x y) :=
  of_row (opcodeRow 0x8007 0xF00F 16) (by decide) rfl (ends_nibble _ x y _) (ends_nibble _ x y _)
theorem shl (x : Reg) : Statement (.shl x) :=
  of_row (opcodeRow 0x800E 0xF00F 17) (by decide) rfl (ends_nibble _ x _ _) (ends_nibble _ x _ _)
theorem skipNotEqualReg (x y : Reg) : Statement (.skipNotEqualReg x y) :=
  of_row ⟨0x9000, 0xF00F, 0xF000, 18⟩ (by decide) rfl (ends_nibble _ x y _) (top_nibble _ x y _)
theorem loadIndex (a : Addr) : Statement (.loadIndex a) :=
  of_row (opcodeRow 0xA000 0xF000 19) (by decide) rfl (top_addr _ a) (top_addr _ a)
theorem jumpV0 (a : Addr) : Statement (.jumpV0 a) :=
  of_row (opcodeRow 0xB000 0xF000 20) (by decide) rfl (top_addr _ a) (top_addr _ a)
theorem random (x : Reg) (kk : Byte) : Statement (.random x kk) :=
  of_row (opcodeRow 0xC000 0xF000 21) (by decide) rfl (top_byte _ x kk) (top_byte _ x kk)
theorem draw (x y : Reg) (n : Nibble) : Statement (.draw x y n) :=
  of_row (opcodeRow 0xD000 0xF000 22) (by decide) rfl (top_nibble _ x y n) (top_nibble _ x y n)
theorem skipKeyPressed (x : Reg) : Statement (.skipKeyPressed x) :=
  of_row (opcodeRow 0xE09E 0xF0FF 23) (by decide) rfl (ends_byte _ x _) (ends_byte _ x _)
theorem skipKeyNotPressed (x : Reg) : Statement (.skipKeyNotPressed x) :=
  of_row (opcodeRow 0xE0A1 0xF0FF 24) (by decide) rfl (ends_byte _ x _) (ends_byte _ x _)
theorem getDelay (x : Reg) : Statement (.getDelay x) :=
  of_row (opcodeRow 0xF007 0xF0FF 25) (by decide) rfl (ends_byte _ x _) (ends_byte _ x _)
theorem waitKeyPressed (x : Reg) : Statement (.waitKeyPressed x) :=
  of_row (opcodeRow 0xF00A 0xF0FF 26) (by decide) rfl (ends_byte _ x _) (ends_byte _ x _)
theorem setDelay (x : Reg) : Statement (.setDelay x) :=
  of_row (opcodeRow 0xF015 0xF0FF 27) (by decide) rfl (ends_byte _ x _) (ends_byte _ x _)
theorem setSound (x : Reg) : Statement (.setSound x) :=
  of_row (opcodeRow 0xF018 0xF0FF 28) (by decide) rfl (ends_byte _ x _) (ends_byte _ x _)
theorem addI (x : Reg) : Statement (.addI x) :=
  of_row (opcodeRow 0xF01E 0xF0FF 29) (by decide) rfl (ends_byte _ x _) (ends_byte _ x _)
theorem loadSprite (x : Reg) : Statement (.loadSprite x) :=
  of_row (opcodeRow 0xF029 0xF0FF 30) (by decide) rfl (ends_byte _ x _) (ends_byte _ x _)
theorem loadBCD (x : Reg) : Statement (.loadBCD x) :=
  of_row (opcodeRow 0xF033 0xF0FF 31) (by decide) rfl (ends_byte _ x _) (ends_byte _ x _)
theorem saveRegisters (x : Reg) : Statement (.saveRegisters x) :=
  of_row (opcodeRow 0xF055 0xF0FF 32) (by decide) rfl (ends_byte _ x _) (ends_byte _ x _)
theorem loadRegisters (x : Reg) : Statement (.loadRegisters x) :=
  of_row (opcodeRow 0xF065 0xF0FF 33) (by decide) rfl (ends_byte _ x _) (ends_byte _ x _)

end Sys2Proof.Laws.TableRow
end

