-- ==== Sys2Proof/Tests/Slice0.lean ====
section
/-! SUPPORT. Small tests by evaluation. Expected values come from spec/95_test_vectors.md (its section stands
above each group) and from the encodings of 30_encoding.md; then one witness for the hypotheses of every
statement that has some. -/

namespace Sys2Proof.Tests

open Sys2Proof Sys2Proof.Machine Sys2Proof.Config

/-! ### Helpers -/

/-- The reset state with some registers set. -/
def start (regs : List (Reg × Byte)) : State := regs.foldl (fun s p => s.setReg p.1 p.2) State.reset

/-- The next state of an outcome. -/
def nextOf (o : Host.Outcome State Fault Refusal) : Option State :=
  match o with
  | .next s => some s
  | _ => none

/-- One cycle that fetches the word, with `isRunning` answering true. -/
def ran (w : Nat) (s : State) : Option State := nextOf (step (s.withFetchWord 16 w))

/-- Some cells of the screen. -/
def cellsAt (s : State) (cells : List (Nat × Nat)) : List Bool := cells.map fun p => s.fb.cell p.1 p.2

/-- The bytes at `a`, `a + 1`, `a + 2`. -/
def three (s : State) (a : Nat) : Byte × Byte × Byte :=
  (Memory.read s.mem a, Memory.read s.mem (a + 1), Memory.read s.mem (a + 2))

/-- A state at `pc`. -/
def atPc (pc : Word) (s : State) : State := { s with pc := pc }

/-- A state with index register `i`. -/
def atI (i : Word) (s : State) : State := { s with i := i }

/-! ### Well-formedness: an ill-formed term for each check (30_encoding.md R71, R85, R86; 70 R314) -/

/-- The decoder's outputs for 0x5120. -/
def goodPorts : DecoderOut := ⟨true, some 6, 0x1, 0x2, 0x0, 0x20, 0x120, 0x5120⟩

theorem test_wf_accepts : goodPorts.wf = true := by decide
theorem test_wf_refuses_a_missing_variant :
    { goodPorts with variant := none }.variantPresent = false ∧ { goodPorts with variant := none }.wf = false := by
  decide
theorem test_wf_refuses_a_variant_without_valid : { goodPorts with valid := false }.wf = false := by decide
theorem test_wf_refuses_variant_34 :
    { goodPorts with variant := some 34 }.variantInRange = false ∧ { goodPorts with variant := some 34 }.wf = false := by
  decide
theorem test_wf_refuses_fields_that_do_not_overlap :
    { goodPorts with fN := 0x1 }.fieldsOverlap = false ∧ { goodPorts with fN := 0x1 }.wf = false := by decide
theorem test_wf_refuses_fields_of_another_word :
    { goodPorts with errWord := 0x5130 }.fieldsFromWord = false ∧ { goodPorts with errWord := 0x5130 }.wf = false := by
  decide
theorem test_wf_rom : romFits (List.replicate 3584 0x00#8) = true ∧ romFits (List.replicate 3585 0x00#8) = false := by
  unfold romFits; rw [List.length_replicate, List.length_replicate]; decide

/-! ### Decoding (95_test_vectors.md 2.1): every constructor -/

theorem test_decode_control (strict : Bool) :
    [decodeWord strict 0x00EE, decodeWord strict 0x0000, decodeWord strict 0x00E1, decodeWord strict 0x1ABC,
      decodeWord strict 0x2345, decodeWord strict 0x3A7F, decodeWord strict 0x4A7F, decodeWord strict 0x5120,
      decodeWord strict 0x9120, decodeWord strict 0xB123] =
    [.instr .ret, .instr (.jump 0x000), .instr (.jump 0x0E1), .instr (.jump 0xABC), .instr (.call 0x345),
      .instr (.skipEqualByte 0xA 0x7F), .instr (.skipNotEqualByte 0xA 0x7F), .instr (.skipEqualReg 1 2),
      .instr (.skipNotEqualReg 1 2), .instr (.jumpV0 0x123)] := by revert strict; decide
theorem test_decode_alu (strict : Bool) :
    [decodeWord strict 0x6FFF, decodeWord strict 0x7000, decodeWord strict 0x8120, decodeWord strict 0x8121,
      decodeWord strict 0x8122, decodeWord strict 0x8123, decodeWord strict 0x8124, decodeWord strict 0x8125,
      decodeWord strict 0x8127, decodeWord strict 0xC0FF] =
    [.instr (.loadByte 0xF 0xFF), .instr (.addByte 0 0), .instr (.move 1 2), .instr (.or 1 2), .instr (.and 1 2),
      .instr (.xor 1 2), .instr (.add 1 2), .instr (.sub 1 2), .instr (.subn 1 2), .instr (.random 0 0xFF)] := by
  revert strict; decide
theorem test_decode_shifts_ignore_y (strict : Bool) :
    [decodeWord strict 0x8126, decodeWord strict 0x81F6, decodeWord strict 0x812E, decodeWord strict 0x81FE] =
    [.instr (.shr 1), .instr (.shr 1), .instr (.shl 1), .instr (.shl 1)] := by revert strict; decide
theorem test_decode_screen_index_memory (strict : Bool) :
    [decodeWord strict 0x00E0, decodeWord strict 0xD015, decodeWord strict 0xA000, decodeWord strict 0xF11E,
      decodeWord strict 0xF129, decodeWord strict 0xF133, decodeWord strict 0xF155, decodeWord strict 0xF165] =
    [.instr .clearScreen, .instr (.draw 0 1 5), .instr (.loadIndex 0), .instr (.addI 1), .instr (.loadSprite 1),
      .instr (.loadBCD 1), .instr (.saveRegisters 1), .instr (.loadRegisters 1)] := by revert strict; decide
theorem test_decode_timers_keys (strict : Bool) :
    [decodeWord strict 0xE19E, decodeWord strict 0xE1A1, decodeWord strict 0xF107, decodeWord strict 0xF10A,
      decodeWord strict 0xF115, decodeWord strict 0xF118] =
    [.instr (.skipKeyPressed 1), .instr (.skipKeyNotPressed 1), .instr (.getDelay 1), .instr (.waitKeyPressed 1),
      .instr (.setDelay 1), .instr (.setSound 1)] := by revert strict; decide
theorem test_decode_errors :
    [0x8128#16, 0x8129#16, 0x812A#16, 0x812B#16, 0x812C#16, 0x812D#16, 0x812F#16].map (decodeWord false) =
      [0x8128#16, 0x8129#16, 0x812A#16, 0x812B#16, 0x812C#16, 0x812D#16, 0x812F#16].map .unknownOpcode ∧
    [0xE19F#16, 0xE1A0#16, 0xE100#16, 0xE1FF#16, 0xF100#16, 0xF108#16, 0xF10B#16, 0xF090#16, 0xF1FF#16].map
      (decodeWord false) =
      [0xE19F#16, 0xE1A0#16, 0xE100#16, 0xE1FF#16, 0xF100#16, 0xF108#16, 0xF10B#16, 0xF090#16, 0xF1FF#16].map
      .unknownOpcode := by decide
theorem test_decode_strict59 :
    decodeWord true 0x5121 = .unknownOpcode 0x5121 ∧ decodeWord false 0x5121 = .instr (.skipEqualReg 1 2) ∧
    decodeWord true 0x512F = .unknownOpcode 0x512F ∧ decodeWord false 0x512F = .instr (.skipEqualReg 1 2) ∧
    decodeWord true 0x9121 = .unknownOpcode 0x9121 ∧ decodeWord false 0x9121 = .instr (.skipNotEqualReg 1 2) := by
  decide
/-- High byte first (20_memory.md R51). -/
theorem test_decode_bytes :
    decodeBytes true [0x60, 0x2A, 0x99] = .instr (.loadByte 0 0x2A) [0x99] ∧
    decodeBytes true [0xFF, 0xFF] = .unknownOpcode 0xFFFF ∧ decodeBytes true [0x60] = .truncated := by decide
theorem test_decodeTableWord :
    decodeTableWord 16 0xD015 = some (.draw 0 1 5) ∧ decodeTableWord 16 0xF090 = none := by decide
/-- The ports for a valid and an invalid word (30_encoding.md R85, R86). -/
theorem test_decoder_ports :
    decoderPorts true 0x5120 = goodPorts ∧
    decoderPorts true 0x5121 = ⟨false, none, 0x1, 0x2, 0x1, 0x21, 0x121, 0x5121⟩ := by decide

/-! ### Formatter (95_test_vectors.md 2.10) -/

theorem test_format_a :
    [format .clearScreen, format .ret, format (.jump 0x300), format (.call 0x00A), format (.skipEqualByte 0xA 0x7F),
      format (.skipNotEqualByte 0 0), format (.skipEqualReg 1 2), format (.loadByte 0xF 0xFF), format (.addByte 3 1),
      format (.move 1 2), format (.shr 1), format (.subn 1 2), format (.loadIndex 0)] =
    ["CLS", "RET", "JP 0x300", "CALL 0x00A", "SE VA, 0x7F", "SNE V0, 0x00", "SE V1, V2", "LD VF, 0xFF",
      "ADD V3, 0x01", "LD V1, V2", "SHR V1", "SUBN V1, V2", "LD I, 0x000"] := by decide
theorem test_format_b :
    [format (.jumpV0 0x123), format (.random 3 0x0F), format (.draw 0 1 5), format (.skipKeyPressed 1),
      format (.getDelay 2), format (.waitKeyPressed 2), format (.setSound 4), format (.addI 5), format (.loadSprite 6),
      format (.loadBCD 7), format (.saveRegisters 0xF), format (.loadRegisters 0xF)] =
    ["JP V0, 0x123", "RND V3, 0x0F", "DRW V0, V1, 0x5", "SKP V1", "LD V2, DT", "LD V2, K", "LD ST, V4", "ADD I, V5",
      "LD F, V6", "LD B, V7", "LD [I], VF", "LD VF, [I]"] := by decide

/-! ### Control flow (95_test_vectors.md 1.9, 2.5) -/

theorem test_jump : (ran 0x1301 (start [])).map (·.pc) = some 0x301 ∧ (ran 0x0300 (start [])).map (·.pc) = some 0x300 := by
  decide
theorem test_call : (ran 0x2400 (atPc 0x202 (start []))).map (fun s => (s.stack[0], s.sp.val, s.pc)) =
    some (0x204, 1, 0x400) := by decide
theorem test_call_overflow :
    (ran 0x2400 { atPc 0x300 (start []) with sp := 16 }).map (fun s => (s.resp, s.sp.val, s.pc, s.status)) =
      some (some (.fault .stackOverflow 0x300 0x0400), 16, 0x300, .fault) := by decide
theorem test_ret :
    (ran 0x00EE { atPc 0x400 (start []) with sp := 1, stack := (start []).stack.set 0 0x204 }).map
      (fun s => (s.sp.val, s.pc, s.stack[0])) = some (0, 0x204, 0x204) := by decide
theorem test_ret_underflow : (ran 0x00EE (atPc 0x300 (start []))).map (fun s => (s.resp, s.pc)) =
    some (some (.fault .stackUnderflow 0x300 0x0000), 0x300) := by decide
theorem test_jumpV0 : (ran 0xB300 (start [(0, 0x04)])).map (·.pc) = some 0x304 := by decide
theorem test_jumpV0_not_wrapped : (ran 0xBFFF (start [(0, 0xFF)])).map (·.pc) = some 0x10FE := by decide
theorem test_skipEqualByte :
    (ran 0x332A (start [(3, 0x2A)])).map (·.pc) = some 0x204 ∧
    (ran 0x332B (start [(3, 0x2A)])).map (·.pc) = some 0x202 := by decide
theorem test_skipNotEqualByte :
    (ran 0x432A (start [(3, 0x2A)])).map (·.pc) = some 0x202 ∧
    (ran 0x4300 (start [(3, 0x2A)])).map (·.pc) = some 0x204 := by decide
theorem test_skipEqualReg :
    (ran 0x5120 (start [(1, 7), (2, 7)])).map (·.pc) = some 0x204 ∧
    (ran 0x5120 (start [(1, 7), (2, 8)])).map (·.pc) = some 0x202 := by decide
theorem test_skipNotEqualReg :
    (ran 0x9120 (start [(1, 7), (2, 8)])).map (·.pc) = some 0x204 ∧
    (ran 0x9110 (start [(1, 7)])).map (·.pc) = some 0x202 := by decide

/-! ### ALU (95_test_vectors.md 1.3 to 1.6, 2.2 to 2.4) -/

theorem test_loadByte : (ran 0x6F07 (start [(0xF, 1)])).map (·.reg 0xF) = some 0x07 := by decide
theorem test_addByte : (ran 0x7AFF (start [(0xA, 2)])).map (fun s => (s.reg 0xA, s.reg 0xF)) = some (0x01, 0x00) := by
  decide
theorem test_move : (ran 0x8120 (start [(1, 0x11), (2, 0x22)])).map (fun s => (s.reg 1, s.reg 2)) = some (0x22, 0x22) := by
  decide
theorem test_or :
    (ran 0x8121 (start [(1, 0xF0), (2, 0x3C), (0xF, 0x55)])).map (fun s => (s.reg 1, s.reg 0xF)) = some (0xFC, 0x55) := by
  decide
theorem test_and :
    (ran 0x8122 (start [(1, 0xF0), (2, 0x3C), (0xF, 0x55)])).map (fun s => (s.reg 1, s.reg 0xF)) = some (0x30, 0x55) := by
  decide
theorem test_xor :
    (ran 0x8123 (start [(1, 0xF0), (2, 0x3C), (0xF, 0x55)])).map (fun s => (s.reg 1, s.reg 0xF)) = some (0xCC, 0x55) := by
  decide
/-- Both values of `ADD_CLEARS_VF` (90_conflicts.md C2). -/
theorem test_add :
    (ran 0x8124 (start [(1, 0xFF), (2, 1)])).map (fun s => (s.reg 1, s.reg 0xF)) = some (0x00, 0x01) ∧
    (ran 0x8124 (start [(1, 0x7F), (2, 0x80), (0xF, 5)])).map (fun s => (s.reg 1, s.reg 0xF)) = some (0xFF, 0x05) ∧
    (ran 0x8124 { start [(1, 0x7F), (2, 0x80), (0xF, 5)] with
      params := { defaultParams with addClearsVf := true } }).map (fun s => (s.reg 1, s.reg 0xF)) = some (0xFF, 0x00) := by
  decide
theorem test_add_to_vf :
    (ran 0x8F14 (start [(0xF, 0x10), (1, 0x20)])).map (·.reg 0xF) = some 0x30 ∧
    (ran 0x8F14 (start [(0xF, 0xF0), (1, 0x20)])).map (·.reg 0xF) = some 0x01 := by decide
theorem test_sub :
    (ran 0x8125 (start [(1, 5), (2, 9)])).map (fun s => (s.reg 1, s.reg 0xF)) = some (0xFC, 0x00) ∧
    (ran 0x8125 (start [(1, 5), (2, 5)])).map (fun s => (s.reg 1, s.reg 0xF)) = some (0x00, 0x00) := by decide
/-- Both values of `VF_ORDER`. -/
theorem test_sub_vf :
    (ran 0x81F5 (start [(1, 9), (0xF, 5)])).map (fun s => (s.reg 1, s.reg 0xF)) = some (0x08, 0x01) ∧
    (ran 0x81F5 { start [(1, 9), (0xF, 5)] with params := { defaultParams with vfOrder := .latched } }).map
      (fun s => (s.reg 1, s.reg 0xF)) = some (0x04, 0x01) := by decide
theorem test_shr : (ran 0x81F6 (start [(1, 3)])).map (fun s => (s.reg 1, s.reg 0xF)) = some (0x01, 0x01) := by decide
theorem test_shr_vf :
    (ran 0x8F06 (start [(0xF, 3)])).map (·.reg 0xF) = some 0x00 ∧
    (ran 0x8F06 { start [(0xF, 3)] with params := { defaultParams with vfOrder := .latched } }).map (·.reg 0xF) =
      some 0x01 := by decide
theorem test_subn :
    (ran 0x8127 (start [(1, 5), (2, 9)])).map (fun s => (s.reg 1, s.reg 0xF)) = some (0x04, 0x01) ∧
    (ran 0x8127 (start [(1, 9), (2, 5)])).map (fun s => (s.reg 1, s.reg 0xF)) = some (0xFC, 0x00) := by decide
/-- `SUBN_UNDERFLOW` = fault, and the subtraction that sees the new VF. -/
theorem test_subn_underflow :
    (ran 0x8127 { start [(1, 9), (2, 5)] with params := { defaultParams with subnUnderflow := .fault } }).map
      (fun s => (s.resp, s.reg 1)) = some (some (.fault .subnUnderflow 0x200 0x0509), 0x09) ∧
    (ran 0x81F7 { start [(1, 3), (0xF, 9)] with params := { defaultParams with subnUnderflow := .fault } }).map
      (·.resp) = some (some (.fault .subnUnderflow 0x200 0x0903)) := by decide
theorem test_shl :
    (ran 0x810E (start [(1, 0x81)])).map (fun s => (s.reg 1, s.reg 0xF)) = some (0x02, 0x01) ∧
    (ran 0x810E (start [(1, 0x7F)])).map (fun s => (s.reg 1, s.reg 0xF)) = some (0xFE, 0x00) := by decide
theorem test_random :
    (ran 0xC30F { start [] with rng := ⟨[0xB7], 0⟩ }).map (fun s => (s.reg 3, s.rng)) = some (0x07, ⟨[], 1⟩) ∧
    (ran 0xC300 { start [] with rng := ⟨[0xB7], 0⟩ }).map (fun s => (s.reg 3, s.rng)) = some (0x00, ⟨[], 1⟩) := by decide

/-! ### Index and memory (95_test_vectors.md 2.6) -/

theorem test_loadIndex : (ran 0xA123 (start [])).map (·.i) = some 0x123 := by decide
theorem test_addI :
    (ran 0xF01E (atI 0xFFFF (start [(0, 1)]))).map (·.i) = some 0x0000 ∧
    (ran 0xF21E (atI 0x0FF0 (start [(2, 0x20)]))).map (fun s => (s.i, s.reg 0xF)) = some (0x1010, 0x00) := by decide
theorem test_loadSprite :
    (ran 0xF429 (start [(4, 0x0A)])).map (·.i) = some 0x032 ∧ (ran 0xF429 (start [(4, 0xFF)])).map (·.i) = some 0x4FB := by
  decide
theorem test_loadBCD :
    (ran 0xF533 (atI 0xFFD (start [(5, 0xFE)]))).map (fun s => (three s 0xFFD, s.i)) = some ((2, 5, 4), 0xFFD) := by decide
theorem test_loadBCD_out :
    (ran 0xF533 (atI 0xFFE (start [(5, 0xFE)]))).map (fun s => (s.resp, Memory.read s.mem 0xFFE)) =
      some (some (.fault .memoryOutOfBounds 0x200 0x0FFE), 0x00) := by decide
theorem test_saveRegisters :
    (ran 0xF255 (atI 0x300 (start [(0, 1), (1, 2), (2, 3), (3, 9)]))).map
      (fun s => (three s 0x300, Memory.read s.mem 0x303, s.i)) = some ((1, 2, 3), 0, 0x300) := by decide
theorem test_saveRegisters_bounds :
    (ran 0xFF55 (atI 0xFF0 (start [(0xF, 7)]))).map (fun s => Memory.read s.mem 0xFFF) = some 7 ∧
    (ran 0xFF55 (atI 0xFF1 (start []))).map (·.resp) = some (some (.fault .memoryOutOfBounds 0x200 0x0FF1)) := by decide
theorem test_loadRegisters :
    (ran 0xF465 (start [(5, 9)])).map (fun s => ([s.reg 0, s.reg 1, s.reg 2, s.reg 3, s.reg 4, s.reg 5], s.i)) =
      some ([0xF0, 0x90, 0x90, 0x90, 0xF0, 9], 0) := by decide
theorem test_loadRegisters_out :
    (ran 0xF065 (atI 0x1000 (start [(0, 3)]))).map (fun s => (s.resp, s.reg 0)) =
      some (some (.fault .memoryOutOfBounds 0x200 0x1000), 3) := by decide

/-! ### Timers and keys (95_test_vectors.md 2.7) -/

theorem test_getDelay :
    (ran 0xF007 { start [] with dt := 0x10 }).map (fun s => (s.reg 0, s.dt)) = some (0x10, 0x0F) ∧
    (ran 0xF007 (start [])).map (fun s => (s.reg 0, s.dt)) = some (0x00, 0x00) := by decide
theorem test_setDelay : (ran 0xF115 (start [(1, 5)])).map (·.dt) = some 0x04 := by decide
theorem test_setSound : (ran 0xF118 (start [(1, 3)])).map (·.st) = some 0x02 := by decide
theorem test_timers_fall :
    (ran 0x6000 { start [] with dt := 1, st := 2 }).map (fun s => (s.dt, s.st)) = some (0, 1) := by decide
theorem test_skipKeyPressed :
    (ran 0xE19E { atPc 0x300 (start [(1, 5)]) with keyPoll := ⟨[0x0020, 0xFFDF], 0⟩ }).map (fun s => (s.pc, s.keyPoll.count)) =
      some (0x304, 1) ∧
    (ran 0xE19E { atPc 0x300 (start [(1, 5)]) with keyPoll := ⟨[0xFFDF], 0⟩ }).map (·.pc) = some 0x302 := by decide
theorem test_skipKeyPressed_unknown :
    (ran 0xE19E { atPc 0x300 (start [(1, 0x10)]) with dt := 5 }).map (fun s => (s.resp, s.dt, s.keyPoll.count)) =
      some (some (.fault .unknownKey 0x300 0x0010), 5, 0) := by decide
theorem test_skipKeyNotPressed :
    (ran 0xE1A1 { atPc 0x300 (start [(1, 5)]) with keyPoll := ⟨[0x0020], 0⟩ }).map (·.pc) = some 0x302 ∧
    (ran 0xE1A1 { atPc 0x300 (start [(1, 5)]) with keyPoll := ⟨[0xFFDF], 0⟩ }).map (·.pc) = some 0x304 := by decide
theorem test_waitKeyPressed :
    (ran 0xF20A { atPc 0x300 (start []) with dt := 5, keyWait := ⟨[some 0xB], 0⟩ }).map
      (fun s => (s.reg 2, s.pc, s.dt)) = some (0x0B, 0x302, 4) ∧
    (ran 0xF20A { atPc 0x300 (start []) with
      dt := 5, keyWait := ⟨[some 0xB], 0⟩, params := { defaultParams with fx0aPc := .stay } }).map
      (fun s => (s.reg 2, s.pc, s.dt)) = some (0x0B, 0x300, 4) := by decide
theorem test_waitKeyPressed_holds :
    (ran 0xF20A { atPc 0x300 (start []) with dt := 5, keyWait := ⟨[none], 0⟩ }).map
      (fun s => (s.hold, s.pc, s.dt, s.resp)) = some (some ⟨2, 0x300⟩, 0x300, 5, none) := by decide

/-! ### Screen (95_test_vectors.md 1.7, 1.8, 2.8) -/

/-- A state with sprite bytes at 0x300 and I there. -/
def sprite (bytes : List Byte) (s : State) : State := { atI 0x300 s with mem := Memory.putAll s.mem 0x300 bytes }

theorem test_clearScreen :
    (ran 0x00E0 { start [(0xF, 3)] with fb := (start []).fb.setCell 3 4 true }).map
      (fun s => (cellsAt s [(3, 4), (31, 63)], s.dirty, s.reg 0xF)) = some ([false, false], true, 3) := by decide
theorem test_draw_wraps :
    (ran 0xD012 (sprite [0x80, 0xC0] (start [(0, 0x3F), (1, 0x1F)]))).map
      (fun s => (cellsAt s [(31, 63), (31, 0), (0, 63), (0, 0)], s.reg 0xF, s.dirty)) =
      some ([true, false, true, true], 0, false) := by decide
theorem test_draw_collides :
    (ran 0xDF01 { sprite [0xC0] (start [(0xF, 5)]) with fb := (start []).fb.setCell 0 5 true }).map
      (fun s => (cellsAt s [(0, 5), (0, 6), (0, 7)], s.reg 0xF)) = some ([false, true, false], 1) := by decide

/-- R251: `collision` keeps the last draw's flag after VF is overwritten. -/
theorem test_collision_is_kept :
    (((ran 0xDF01 { sprite [0xC0] (start [(0xF, 5)]) with fb := (start []).fb.setCell 0 5 true }).bind (ran 0x6F00)).map
      fun s => (s.blitterPorts.collision, s.reg 0xF)) = some (true, 0) := by decide

/-! ### Cycle, reset, load (95_test_vectors.md 2.9) -/

theorem test_halted :
    (nextOf (step { start [] with dt := 5, running := ⟨[false], 0⟩ })).map (fun s => (s.resp, s.pc, s.dt)) =
      some (some .halted, 0x200, 5) := by decide
/-- R106, R315: the halted request was a cycle, so a load after it has no meaning; R317: a reset allows one. -/
theorem test_no_load_after_halt :
    (nextOf (step { start [] with running := ⟨[false], 0⟩ })).map (fun s => (s.loadRom [0x12], s.resetPort.loadOpen)) =
      some (.noMeaning, true) := by decide
theorem test_decode_fault :
    (ran 0xFFFF { start [] with dt := 5 }).map (fun s => (s.resp, s.pc, s.dt)) =
      some (some (.fault .decodeError 0x200 0xFFFF), 0x200, 5) := by decide
theorem test_fetch_fault :
    (nextOf (step { atPc 0xFFF (start []) with running := ⟨[true], 0⟩ })).map (·.resp) =
      some (some (.fault .memoryOutOfBounds 0xFFF 0x0FFF)) := by decide
theorem test_reset_memory :
    ((List.range 10).map (Memory.read State.reset.mem) = [0xF0, 0x90, 0x90, 0x90, 0xF0, 0x20, 0x60, 0x20, 0x20, 0x70]) ∧
    ((List.range 5).map (fun k => Memory.read State.reset.mem (0x4B + k)) = [0xF0, 0x80, 0xF0, 0x80, 0x80]) := by decide
theorem test_load :
    (match State.reset.loadRom [0x00, 0xE0] with
      | .ok s => Memory.read s.mem 0x201
      | .tooLarge _ => 0
      | .noMeaning => 0) = 0xE0#8 := by decide
theorem test_ports :
    (ran 0x2400 (atI 0x123 (start []))).map (fun s => (s.ports.stPc, s.ports.stI, s.ports.stSp, s.ports.stStatus)) =
      some (0x400, 0x123, 1, 0) := by decide
/-- D26: bit r * 64 + c of `fb_out` is cell (r, c). -/
theorem test_fb_out (fb : Screen) : fb.out[67] = fb.cell 1 3 := by simp [Screen.out]

/-! ### Witnesses: states and operands that meet the hypotheses of the statements, clause by clause -/

/-- A machine that is ready to run `w` at 0x200. -/
def readyFor (w : Nat) : State := State.reset.withFetchWord 16 w

/-- A machine that faulted on 0xFFFF at 0x200. -/
def faulted : State := (readyFor 0xFFFF).drawRunning.raise .decodeError 0xFFFF

/-- A machine that waits for a key at 0x200. -/
def waiting : State := { (readyFor 0xF20A).drawRunning with hold := some ⟨2, 0x200⟩, keyWait := ⟨[none, some 7], 0⟩ }

theorem witness_EncodingADecodedWordGivesTheWordBack :
    decodeWord true 0x0123 = .instr (.jump 0x123) ∧ decodeWord true 0x81F6 = .instr (.shr 1) ∧
    decodeWord true 0x81FE = .instr (.shl 1) ∧ decodeWord false 0x512F = .instr (.skipEqualReg 1 2) ∧
    decodeWord false 0x912F = .instr (.skipNotEqualReg 1 2) ∧ decodeWord true 0xFFFF = .unknownOpcode 0xFFFF ∧
    decodeWord true 0xDFFF = .instr (.draw 0xF 0xF 0xF) := by decide
theorem witness_MnemonicStringsDetermineTheInstruction : format (.jump 0x300) = format (.jump 0x300) := rfl
theorem witness_StepRunsTheDecodedInstruction :
    (Ready (readyFor 0x6A2A) ∧ (readyFor 0x6A2A).pc.toNat ≤ 0xFFE ∧
      decodeWord (readyFor 0x6A2A).params.strict59 (Memory.read (readyFor 0x6A2A).mem (readyFor 0x6A2A).pc.toNat ++
        Memory.read (readyFor 0x6A2A).mem ((readyFor 0x6A2A).pc.toNat + 1)) = .instr (.loadByte 0xA 0x2A)) ∧
    (Ready ((atPc 0xFFE State.reset).withFetchWord 16 0x00E0) ∧
      ((atPc 0xFFE State.reset).withFetchWord 16 0x00E0).fetchWord = some 0x00E0#16) := by
  unfold Ready; decide
theorem witness_UndecodableWordRaisesDecodeError :
    Ready (readyFor 0xFFFF) ∧ (readyFor 0xFFFF).pc.toNat ≤ 0xFFE ∧
    0xFFFF#16 = Memory.read (readyFor 0xFFFF).mem (readyFor 0xFFFF).pc.toNat ++
      Memory.read (readyFor 0xFFFF).mem ((readyFor 0xFFFF).pc.toNat + 1) ∧
    decodeWord (readyFor 0xFFFF).params.strict59 0xFFFF = .unknownOpcode 0xFFFF := by unfold Ready; decide
theorem witness_FetchOutsideMemoryFaults :
    Ready (atPc 0xFFF (readyFor 0)) ∧ 0xFFE < (atPc 0xFFF (readyFor 0)).pc.toNat ∧
    Ready (atPc 0xFFFF (readyFor 0)) := by unfold Ready; decide
theorem witness_HaltedCycleChangesNothing :
    State.reset.status = .run ∧ State.reset.hold = none ∧
    { State.reset with running := ⟨[false], 0⟩ }.runningNow = false := by decide
theorem witness_FaultRepeatsForever : faulted.status = .fault := by decide
/-- One faulting cycle for each code (also for `FaultRecordMatchesItsCause`). -/
theorem witness_FaultingCycleCommitsNothing :
    [ran 0xFFFF (start []), ran 0xE19E (start [(1, 0x10)]), ran 0x2400 { start [] with sp := 16 }, ran 0x00EE (start []),
      ran 0xF033 (atI 0xFFE (start [])), nextOf (step (atPc 0xFFF (readyFor 0))),
      ran 0x8127 { start [(1, 9)] with params := { defaultParams with subnUnderflow := .fault } }].map
      (fun o => o.map fun t => (t.status, t.faultCode)) =
    [some (.fault, .decodeError), some (.fault, .unknownKey), some (.fault, .stackOverflow), some (.fault, .stackUnderflow),
      some (.fault, .memoryOutOfBounds), some (.fault, .memoryOutOfBounds), some (.fault, .subnUnderflow)] ∧
    (readyFor 0xFFFF).status = .run := by decide
theorem witness_TimersFallOncePerCompletedCycle :
    ((nextOf (exec (.setDelay 1) (start [(1, 5)]))).map fun t => (t.resp, t.dt)) = some (some .done, 4) ∧
    ((nextOf (exec .ret { start [] with dt := 5 })).map fun t => (t.resp == some .done, t.dt)) = some (false, 5) := by
  decide
/-- The invariant holds of a running, a faulted and a waiting machine, and each steps on. -/
theorem witness_EveryStepKeepsTheInvariant :
    ((readyFor 0x6A2A).Inv ∧ faulted.Inv ∧ waiting.Inv) ∧
    (nextOf (step (readyFor 0x6A2A))).isSome ∧ (nextOf (step faulted)).isSome ∧ (nextOf (step waiting)).isSome := by
  refine ⟨⟨⟨?_, ?_, ?_, ?_, ?_, ?_, ?_, ?_⟩, ⟨?_, ?_, ?_, ?_, ?_, ?_, ?_, ?_⟩, ⟨?_, ?_, ?_, ?_, ?_, ?_, ?_, ?_⟩⟩, ?_⟩
  case refine_6 => intro w h; cases h
  case refine_14 => intro w h; cases h
  case refine_22 => intro w h; cases h; decide
  all_goals decide
theorem witness_ResetAndLoadKeepTheInvariant :
    State.reset.loadOpen = true ∧
    (match State.reset.loadRom [0x12, 0x00] with
      | .ok _ => true
      | .tooLarge _ => false
      | .noMeaning => false) = true := by decide
theorem witness_RomLoadCopiesTheImageOrRefuses :
    State.reset.loadOpen = true ∧ Memory.wf State.reset.mem ∧ (List.replicate 3584 0x01#8).length ≤ 3584 ∧
    3584 < (List.replicate 3585 0x01#8).length ∧ (readyFor 0).loadOpen = false ∧ State.reset.status = .run ∧
    (nextOf (step { State.reset with running := ⟨[false], 0⟩ })).isSome := by
  rw [List.length_replicate, List.length_replicate]; decide
theorem witness_JumpSetsPcToItsAddress : (0x0#4 ++ 0x300#12 : Word) ≠ 0x00E0#16 ∧ (0x0#4 ++ 0x300#12 : Word) ≠ 0x00EE#16 := by
  decide
theorem witness_CallPushesTheNextAddressOrOverflows :
    (start []).sp.val < 16 ∧ { start [] with sp := 15 }.sp.val < 16 ∧ { start [] with sp := 16 }.sp.val = 16 := by decide
theorem witness_ReturnPopsTheNewestEntryOrUnderflows :
    { start [] with sp := 1 }.sp.val = 0 + 1 ∧ { start [] with sp := 16 }.sp.val = 15 + 1 ∧ (start []).sp.val = 0 := by
  decide
theorem witness_NestedCallsReturnToTheFirstCaller :
    (start []).sp.val + (List.replicate 15 (0x300 : Addr)).length < 16 ∧
    { start [] with sp := 15 }.sp.val + ([] : List Addr).length < 16 := by decide
theorem witness_Strict59DecidesRegisterSkipsWithNonzeroN : (0x1 : Nibble) ≠ 0x0#4 := by decide
/-- `wrap`; `fault` without and with an underflow, for x, y = 1, 2 and, with VF as y, under `sequential`. -/
theorem witness_SubnWritesDifferenceOrUnderflows :
    defaultParams.subnUnderflow = .wrap ∧
    { defaultParams with subnUnderflow := SubnUnderflow.fault }.subnUnderflow = .fault ∧
    ((start [(1, 7), (2, 7)]).reg 1).toNat ≤ ((start [(1, 7), (2, 7)]).reg 2).toNat ∧
    ((start [(1, 9), (2, 5)]).reg 2).toNat < ((start [(1, 9), (2, 5)]).reg 1).toNat ∧
    (((start [(1, 3), (0xF, 9)]).writeFlag (some true)).reg 0xF).toNat <
      (((start [(1, 3), (0xF, 9)]).writeFlag (some true)).reg 1).toNat := by decide
theorem witness_VfOrderMattersOnlyForRegisterF :
    (0x0 : Reg) ≠ vf ∧ (0xE : Reg) ≠ vf ∧ Instr.sub 0x0 0xE ∈ [Instr.sub 0x0 0xE, Instr.subn 0x0 0xE, Instr.shr 0x0, Instr.shl 0x0] := by
  decide
theorem witness_LoadBcdStoresThreeDigitsAtI :
    Memory.wf (atI 0xFFD (start [])).mem ∧ (atI 0xFFD (start [])).i.toNat + 2 ≤ 0xFFF ∧
    0xFFF < (atI 0xFFE (start [])).i.toNat + 2 := by decide
/-- Also for `LoadRegistersLoadsV0ToVxFromI` and `SavedRegistersLoadBack`. -/
theorem witness_SaveRegistersStoresV0ToVxAtI :
    Memory.wf (atI 0xFF0 (start [])).mem ∧ (atI 0xFF0 (start [])).i.toNat + (0xF : Reg).toNat ≤ 0xFFF ∧
    (atI 0xFFF (start [])).i.toNat + (0x0 : Reg).toNat ≤ 0xFFF ∧
    0xFFF < (atI 0xFF1 (start [])).i.toNat + (0xF : Reg).toNat ∧
    0xFFF < (atI 0x1000 (start [])).i.toNat + (0x0 : Reg).toNat := by decide
theorem witness_StoreIsSeenByTheNextFetch :
    Memory.wf (atI 0xFFE (start [])).mem ∧ (atI 0xFFE (start [])).i.toNat + (0x1 : Reg).toNat ≤ 0xFFF ∧
    (0x0 : Reg).toNat < (0x1 : Reg).toNat := by decide
theorem witness_KeySkipsPollTheKeyNumberedVx :
    ((start [(1, 0x0F)]).reg 1).toNat ≤ 0x0F ∧ 0x0F < ((start [(1, 0x10)]).reg 1).toNat := by decide
theorem witness_KeyWaitStoresTheKeyAndCompletes :
    { start [] with keyWait := ⟨[some 0xB], 0⟩ }.keyEvent = some 0xB := by decide
theorem witness_KeyWaitHoldsUntilTheKeySourceAnswers :
    { start [] with keyWait := ⟨[none], 0⟩ }.keyEvent = none ∧
    (waiting.status = .run ∧ waiting.hold = some ⟨2, 0x200⟩ ∧ waiting.pc = 0x200 ∧
      { waiting with keyWait := ⟨[none, none], 0⟩ }.keyWait.script = List.replicate 2 none) ∧
    waiting.keyEvent = none ∧ { waiting with keyWait := ⟨[some 7], 1⟩ }.keyEvent = some 7 := by decide
/-- The last sprite that fits, the first that does not, and none at all outside memory (also for
`DrawingTwiceRestoresTheScreen`). -/
theorem witness_DrawXorsTheSpriteAndReportsCollision :
    (atI 0xFFE (start [])).i.toNat + (0x2 : Nibble).toNat ≤ 0x1000 ∧
    0x1000 < (atI 0xFFE (start [])).i.toNat + (0x3 : Nibble).toNat ∧ 0 < (0x3 : Nibble).toNat ∧
    (0x0 : Nibble).toNat = 0 ∧ (0x0 : Reg) ≠ vf ∧ (0x1 : Reg) ≠ vf := by decide
theorem witness_OnlyClearScreenAndDrawChangeTheScreen :
    (ran 0xD005 (start [])).map (fun t => decide (t.fb.cell 0 0 ≠ (readyFor 0xD005).fb.cell 0 0)) = some true := by decide
theorem witness_OnlyTheTwoStoresChangeMemory :
    (nextOf (exec (.saveRegisters 0) (atI 0x300 (start [(0, 7)])))).map
      (fun t => decide (Memory.read t.mem 0x300 ≠ Memory.read (start []).mem 0x300)) = some true := by decide
theorem witness_OnlyCallAndReturnChangeTheStack :
    (nextOf (exec (.call 0x300) (start []))).map (fun t => decide (t.sp ≠ (start []).sp)) = some true := by decide
theorem witness_OnlyThreeInstructionsWriteI :
    (nextOf (exec (.loadIndex 0x300) (start []))).map (fun t => decide (t.i ≠ (start []).i)) = some true := by decide
theorem witness_VfChangesOnlyAsFlagOrDestination :
    (nextOf (exec (.loadByte vf 3) (start []))).map (fun t => decide (t.reg vf ≠ (start []).reg vf)) = some true := by decide
/-- One draw of each kind. -/
theorem witness_OnlyTheirInstructionsAskTheEnvironment :
    ((nextOf (exec (.random 0 3) (start []))).map fun t => decide (t.rng ≠ (start []).rng)) = some true ∧
    ((nextOf (exec (.skipKeyPressed 0) (start []))).map fun t => decide (t.keyPoll ≠ (start []).keyPoll)) = some true ∧
    ((nextOf (exec (.waitKeyPressed 0) { start [] with keyWait := ⟨[some 1], 0⟩ })).map
      fun t => decide (t.keyWait ≠ ⟨[some 1], 0⟩)) = some true := by decide
theorem witness_SoundTimerAndDirtyMarkAreNeverRead :
    (nextOf (step (readyFor 0x00E0))).isSome ∧
    (nextOf (step { readyFor 0x00E0 with st := 9, dirty := true })).map (fun t => (t.st, t.dirty)) = some (8, true) := by
  decide
/-- A draw that completes and changes the port, and one that faults. -/
theorem witness_CollisionPortKeepsTheLastDrawsFlag :
    (Ready ({ start [] with fb := (start []).fb.setCell 0 0 true }.withFetchWord 16 0xD005) ∧
      (ran 0xD005 { start [] with fb := (start []).fb.setCell 0 0 true }).map (fun t => (t.collision, t.resp)) =
        some (true, some .done) ∧ (start []).collision = false) ∧
    (Ready ((atI 0xFFE (start [])).withFetchWord 16 0xD013) ∧
      ((atI 0xFFE (start [])).withFetchWord 16 0xD013).fetchWord = some 0xD013#16 ∧
      decodeWord true 0xD013 = .instr (.draw 0 1 3) ∧
      (ran 0xD013 (atI 0xFFE (start []))).map (·.status) = some .fault) := by
  unfold Ready; decide
theorem witness_OnlyRandomSeesTheRandomSource :
    (∀ x kk, Instr.add 1 2 ≠ .random x kk) ∧ (nextOf (exec (.add 1 2) (start []))).isSome := by
  exact ⟨fun _ _ h => Instr.noConfusion h, by decide⟩

end Sys2Proof.Tests
end

/-! The words of family 0 (30_encoding.md R75). -/

namespace Sys2Proof

/-- A word whose top nibble is 0 goes to the rows of family 0, under either value of `STRICT_5_9`. -/
theorem decodeWord_of_fieldOp_zero (strict : Bool) {w : Word} (h : fieldOp w = 0x0#4) :
    decodeWord strict w = decodeFamily0 w := by
  simp [decodeWord, h]

/-- Settles O4: the top nibble selects family 0, whose two exact words and default are the three cases, and the
jump's address field is `a`. -/
theorem familyZeroIsClearReturnOrJump : Obligations.FamilyZeroIsClearReturnOrJump := by
  intro strict a
  rw [decodeWord_of_fieldOp_zero strict (fieldOp_addr 0x0#4 a), decodeFamily0, fieldAddr_addr]

end Sys2Proof

/-! Frames compose: each named update changes its own part only, and a completed cycle changes what its
instruction changed and the parts of every completed cycle (40_execution_engine.md R101, R104). -/

namespace Sys2Proof.Machine

theorem Unchanged.trans {s t u : State} {p : Part} (hst : Unchanged s t p) (htu : Unchanged t u p) :
    Unchanged s u p := by
  cases p <;> simp_all [Unchanged]

/-- Two updates in turn change at most the parts of both. -/
theorem OnlyChanges.trans {ps qs : List Part} {s t u : State} (hst : OnlyChanges ps s t)
    (htu : OnlyChanges qs t u) : OnlyChanges (qs ++ ps) s u := by
  intro p hp
  obtain ⟨hq, hp⟩ := not_or.1 (mt List.mem_append.2 hp)
  exact (hst p hp).trans (htu p hq)

theorem onlyChanges_setReg (s : State) (x : Reg) (b : Byte) : OnlyChanges [.regs] s (s.setReg x b) := by
  intro p hp
  cases p <;> simp_all [Unchanged]

theorem onlyChanges_drawRand (s : State) : OnlyChanges [.random] s s.drawRand := by
  intro p hp
  cases p <;> simp_all [Unchanged]

theorem onlyChanges_endCycle (s : State) (nextPc : Word) : OnlyChanges doneParts s (s.endCycle nextPc) := by
  intro p hp
  cases p <;> simp_all [Unchanged, doneParts]

/-- An instruction that leaves the timers alone and then ends its cycle: the timers fall from their values
before it. -/
theorem cycleEnds_endCycle {changed : List Part} {s t : State} (nextPc : Word) (h : OnlyChanges changed s t)
    (hdelay : .delay ∉ changed) (hsound : .sound ∉ changed) :
    CycleEnds nextPc changed s (t.endCycle nextPc) := by
  have hdt : t.dt = s.dt := h .delay hdelay
  have hst : t.st = s.st := h .sound hsound
  refine ⟨rfl, ⟨?_, ?_⟩, rfl, rfl, h.trans (onlyChanges_endCycle t nextPc)⟩
  · rw [State.endCycle_dt, timerStep_toNat, hdt]
  · rw [State.endCycle_st, timerStep_toNat, hst]

end Sys2Proof.Machine

/-! `Random` (42_alu_and_regfile.md R163). -/

namespace Sys2Proof.Machine

theorem encodes_random (x : Reg) (kk : Byte) : Encodes (0xC#4 ++ x ++ kk) (.random x kk) := by
  intro strict
  simp [decodeWord]

/-- The `rand` row of R151 is AND, so `Random` is a draw, one register write and the end of the cycle. -/
theorem exec_random (x : Reg) (kk : Byte) (s : State) :
    exec (.random x kk) s = .next ((s.drawRand.setReg x (s.randNow &&& kk)).endCycle (s.pc + 2)) := rfl

/-- Settles O37: the draw changes the random source, the write V[x], and each only that. -/
theorem randomDrawsOneByteAndMasksIt : Obligations.RandomDrawsOneByteAndMasksIt := by
  intro x kk s
  have hframe : OnlyChanges [.regs, .random] s (s.drawRand.setReg x (s.randNow &&& kk)) :=
    (onlyChanges_drawRand s).trans (onlyChanges_setReg s.drawRand x _)
  refine ⟨encodes_random x kk, _, exec_random x kk s,
    cycleEnds_endCycle (s.pc + 2) hframe (by decide) (by decide), fun r => ?_, ?_⟩
  · simp [State.reg_setReg]
  · rw [State.endCycle_rng, State.setReg_rng, State.drawRand_rng, Input.advance]

end Sys2Proof.Machine

/-! `ClearScreen` (45_framebuffer_blitter.md R252, R256). -/

namespace Sys2Proof.Machine

theorem encodes_clearScreen : Encodes 0x00E0#16 .clearScreen := by
  intro strict
  rw [decodeWord_of_fieldOp_zero strict (by decide), decodeFamily0, if_pos rfl]

theorem exec_clearScreen (s : State) : exec .clearScreen s = .next (s.clear.endCycle (s.pc + 2)) := rfl

theorem onlyChanges_clear (s : State) : OnlyChanges [.screen, .dirty] s s.clear := by
  intro p hp
  cases p <;> simp_all [Unchanged]

/-- Settles O49: the update leaves the blank screen and a set dirty mark, whatever stood there, and changes only
these two parts; the end of the cycle keeps both. -/
theorem clearScreenZeroesEveryCell : Obligations.ClearScreenZeroesEveryCell := by
  intro s
  refine ⟨encodes_clearScreen, _, exec_clearScreen s,
    cycleEnds_endCycle (s.pc + 2) (onlyChanges_clear s) (by decide) (by decide), fun r c => ?_, ?_⟩
  · rw [State.endCycle_fb, State.clear_fb, Screen.cell_blank]
  · rw [State.endCycle_dirty, State.clear_dirty]

end Sys2Proof.Machine

/-! Decoding and encoding (30_encoding.md sections 1 to 3). -/

namespace Sys2Proof

open Sys2Proof.Machine

/-- Every instruction's own word decodes to it: the fields of each layout read back as they were written. -/
theorem encodes_encode (i : Instr) : Encodes (encode i) i := by
  intro strict
  cases i with
  | clearScreen => revert strict; decide
  | ret => revert strict; decide
  | _ => simp [encode, decodeWord, decodeRegSkip, decodeFamily8, decodeFamilyE, decodeFamilyF]

/-- Settles O1: on words by `encodes_encode`; the two bytes of a word make up that word again. -/
theorem decodingAnEncodedInstructionGivesItBack : Obligations.DecodingAnEncodedInstructionGivesItBack := by
  intro strict i rest
  refine ⟨encodes_encode i strict, ?_⟩
  simp [encodeBytes, bytesOfWord, decodeBytes, encodes_encode i strict]

/-- Settles O3, word by word. -/
theorem wordsOfTheSpecDecodeAsWritten : Obligations.WordsOfTheSpecDecodeAsWritten := by
  unfold Obligations.WordsOfTheSpecDecodeAsWritten
  decide

/-! ### A word is made of its fields -/

theorem nibble_append_addr (w : Word) : fieldOp w ++ fieldAddr w = w := by
  apply BitVec.eq_of_getLsbD_eq; intro i hi
  rw [getLsbD_addr]
  interval_cases i <;> simp [fieldOp, fieldAddr]

theorem nibble_append_reg_append_byte (w : Word) : fieldOp w ++ fieldX w ++ fieldKk w = w := by
  apply BitVec.eq_of_getLsbD_eq; intro i hi
  rw [getLsbD_byte]
  interval_cases i <;> simp [fieldOp, fieldX, fieldKk]

theorem append_four_nibbles (w : Word) : fieldOp w ++ fieldX w ++ fieldY w ++ fieldN w = w := by
  apply BitVec.eq_of_getLsbD_eq; intro i hi
  rw [getLsbD_nibble]
  interval_cases i <;> simp [fieldOp, fieldX, fieldY, fieldN]

/-- The sixteen values on which R74 and R81 dispatch. -/
theorem nibble_cases (n : Nibble) : n = 0x0#4 ∨ n = 0x1#4 ∨ n = 0x2#4 ∨ n = 0x3#4 ∨ n = 0x4#4 ∨ n = 0x5#4 ∨
    n = 0x6#4 ∨ n = 0x7#4 ∨ n = 0x8#4 ∨ n = 0x9#4 ∨ n = 0xA#4 ∨ n = 0xB#4 ∨ n = 0xC#4 ∨ n = 0xD#4 ∨
    n = 0xE#4 ∨ n = 0xF#4 := by
  revert n
  decide

/-! ### The masks of the opcode table keep the fields that their rows name -/

theorem and_top (w : Word) : w &&& 0xF000#16 = fieldOp w ++ 0x000#12 := by
  conv_lhs => rw [← nibble_append_addr w]
  exact Laws.TableRow.top_addr _ _

theorem and_ends (w : Word) : w &&& 0xF00F#16 = fieldOp w ++ 0x0#4 ++ 0x0#4 ++ fieldN w := by
  conv_lhs => rw [← append_four_nibbles w]
  exact Laws.TableRow.ends_nibble _ _ _ _

theorem and_end_byte (w : Word) : w &&& 0xF0FF#16 = fieldOp w ++ 0x0#4 ++ fieldKk w := by
  conv_lhs => rw [← nibble_append_reg_append_byte w]
  exact Laws.TableRow.ends_byte _ _ _

theorem and_top_eq_iff {w p : Word} (hp : p &&& 0xF000#16 = p) :
    w &&& 0xF000#16 = p ↔ fieldOp w = p.extractLsb' 12 4 := by
  rw [← fieldOp]
  rw [and_top] at hp ⊢
  exact ⟨fun h => by rw [← h, fieldOp_addr], fun h => by rw [h, hp]⟩

theorem and_ends_eq_iff {w p : Word} (hp : p &&& 0xF00F#16 = p) :
    w &&& 0xF00F#16 = p ↔ fieldOp w = p.extractLsb' 12 4 ∧ fieldN w = p.extractLsb' 0 4 := by
  rw [← fieldOp, ← fieldN]
  rw [and_ends] at hp ⊢
  refine ⟨fun h => ?_, fun ⟨ho, hn⟩ => by rw [ho, hn, hp]⟩
  rw [← h, fieldOp_nibble, fieldN_nibble]
  exact ⟨rfl, rfl⟩

theorem and_end_byte_eq_iff {w p : Word} (hp : p &&& 0xF0FF#16 = p) :
    w &&& 0xF0FF#16 = p ↔ fieldOp w = p.extractLsb' 12 4 ∧ fieldKk w = p.extractLsb' 0 8 := by
  rw [← fieldOp, ← fieldKk]
  rw [and_end_byte] at hp ⊢
  refine ⟨fun h => ?_, fun ⟨ho, hk⟩ => by rw [ho, hk, hp]⟩
  rw [← h, fieldOp_byte, fieldKk_byte]
  exact ⟨rfl, rfl⟩

@[simp] theorem Decoded.variantId?_instr (i : Instr) : (Decoded.instr i).variantId? = some i.variantId := rfl
@[simp] theorem Decoded.variantId?_unknownOpcode (w : Word) : (Decoded.unknownOpcode w).variantId? = none := rfl

/-! ### The opcode table, family by family -/

/-- Every mask of the table keeps the whole top nibble, so a word matches only rows of its own family. -/
theorem OpcodeRow.fieldOp_eq_of_selects {strict : Bool} {w : Word} {r : OpcodeRow} (hr : r ∈ opcodeTable)
    (h : r.selects strict w = true) : fieldOp r.pattern = fieldOp w := by
  have hmask : ∀ r ∈ opcodeTable, fieldOp r.mask = 0xF#4 ∧ fieldOp r.maskLoose = 0xF#4 := by decide
  have hand (m : Word) (hm : fieldOp m = 0xF#4) : fieldOp (w &&& m) = fieldOp w := by
    rw [fieldOp, BitVec.extractLsb'_and, ← fieldOp, ← fieldOp, hm]
    exact BitVec.and_allOnes
  rw [← beq_iff_eq.1 h]
  cases strict
  · exact hand _ (hmask r hr).2
  · exact hand _ (hmask r hr).1

/-- The rows of one family, in the table's order. -/
def rowsOf (op : Nibble) : List OpcodeRow := opcodeTable.filter fun r => fieldOp r.pattern == op

/-- The table can be searched as R74 dispatches: by the top nibble first. -/
theorem tableVariant_eq_rowsOf (strict : Bool) (w : Word) :
    tableVariant strict w = ((rowsOf (fieldOp w)).find? (OpcodeRow.selects strict w)).map OpcodeRow.variant := by
  rw [tableVariant, rowsOf, List.find?_filter]
  congr 1
  apply List.find?_congr
  intro r hr
  cases h : r.selects strict w
  · simp
  · simp [OpcodeRow.fieldOp_eq_of_selects hr h]

theorem firstVariant_cons (strict : Bool) (w : Word) (r : OpcodeRow) (rs : List OpcodeRow) :
    ((r :: rs).find? (OpcodeRow.selects strict w)).map OpcodeRow.variant =
      if r.selects strict w then some r.variant
      else (rs.find? (OpcodeRow.selects strict w)).map OpcodeRow.variant := by
  rw [List.find?_cons]
  cases r.selects strict w <;> rfl

section Families
variable {strict : Bool} {w : Word}

theorem opcodeRow_selects_top (p : Word) (v : BitVec 6) (hp : p &&& 0xF000#16 = p) :
    (opcodeRow p 0xF000 v).selects strict w = true ↔ fieldOp w = p.extractLsb' 12 4 := by
  rw [OpcodeRow.selects, opcodeRow, ite_self, beq_iff_eq]
  exact and_top_eq_iff hp

theorem opcodeRow_selects_ends (p : Word) (v : BitVec 6) (hp : p &&& 0xF00F#16 = p) :
    (opcodeRow p 0xF00F v).selects strict w = true ↔
      fieldOp w = p.extractLsb' 12 4 ∧ fieldN w = p.extractLsb' 0 4 := by
  rw [OpcodeRow.selects, opcodeRow, ite_self, beq_iff_eq]
  exact and_ends_eq_iff hp

theorem opcodeRow_selects_end_byte (p : Word) (v : BitVec 6) (hp : p &&& 0xF0FF#16 = p) :
    (opcodeRow p 0xF0FF v).selects strict w = true ↔
      fieldOp w = p.extractLsb' 12 4 ∧ fieldKk w = p.extractLsb' 0 8 := by
  rw [OpcodeRow.selects, opcodeRow, ite_self, beq_iff_eq]
  exact and_end_byte_eq_iff hp

theorem opcodeRow_selects_all (p : Word) (v : BitVec 6) :
    (opcodeRow p 0xFFFF v).selects strict w = true ↔ w = p := by
  rw [OpcodeRow.selects, opcodeRow, ite_self, beq_iff_eq, show (0xFFFF : Word) = BitVec.allOnes 16 from rfl,
    BitVec.and_allOnes]

/-- Family 0 (R75, R76): the two exact words stand before the row of the jump. -/
theorem variantId_eq_table_of_family0 (hop : fieldOp w = 0x0#4) :
    (decodeFamily0 w).variantId? = tableVariant strict w := by
  have hrows : rowsOf 0x0#4 = [opcodeRow 0x00E0#16 0xFFFF 0, opcodeRow 0x00EE#16 0xFFFF 1,
    opcodeRow 0x0000#16 0xF000 2] := rfl
  rw [decodeFamily0, tableVariant_eq_rowsOf, hop, hrows]
  simp only [firstVariant_cons, opcodeRow_selects_all, opcodeRow_selects_top 0x0000#16 2 (by decide), hop]
  split
  · rfl
  · split <;> rfl

/-- A family whose only row fixes the top nibble alone. -/
theorem tableVariant_of_one_row {op : Nibble} {p : Word} {v : BitVec 6} (hrows : rowsOf op = [opcodeRow p 0xF000 v])
    (hp : p &&& 0xF000#16 = p) (hop : fieldOp w = op) (hpop : op = p.extractLsb' 12 4) :
    tableVariant strict w = some v := by
  have hsel := (opcodeRow_selects_top (strict := strict) p v hp).2 (hop.trans hpop)
  rw [tableVariant_eq_rowsOf, hop, hrows, firstVariant_cons, if_pos hsel, opcodeRow]

/-- Families 5 and 9 (R79, R80): the row's mask has n under `STRICT_5_9` only. -/
theorem variantId_eq_table_of_regSkip {op : Nibble} {i : Instr} {p : Word}
    (hrows : rowsOf op = [⟨p, 0xF00F, 0xF000, i.variantId⟩]) (hp : p &&& 0xF000#16 = p) (hop : fieldOp w = op)
    (hpop : op = p.extractLsb' 12 4) (hpn : p.extractLsb' 0 4 = 0x0#4) :
    (decodeRegSkip strict i w).variantId? = tableVariant strict w := by
  have hp' : p &&& 0xF00F#16 = p := by rw [← hp, BitVec.and_assoc]; rfl
  rw [tableVariant_eq_rowsOf, hop, hrows, firstVariant_cons]
  cases strict with
  | false => simp [decodeRegSkip, OpcodeRow.selects, and_top_eq_iff hp, hop, hpop]
  | true =>
    simp only [decodeRegSkip, OpcodeRow.selects, beq_iff_eq, if_true, BitVec.ofNat_eq_ofNat,
      and_ends_eq_iff hp', hpn, hop, ← hpop]
    by_cases hn : fieldN w = 0x0#4 <;> simp [hn]

/-- Family 8 (R81): the rows are told apart by n. -/
theorem variantId_eq_table_of_family8 (hop : fieldOp w = 0x8#4) :
    (decodeFamily8 w).variantId? = tableVariant strict w := by
  have hrows : rowsOf 0x8#4 = [opcodeRow 0x8000 0xF00F 9, opcodeRow 0x8001 0xF00F 10, opcodeRow 0x8002 0xF00F 11,
    opcodeRow 0x8003 0xF00F 12, opcodeRow 0x8004 0xF00F 13, opcodeRow 0x8005 0xF00F 14, opcodeRow 0x8006 0xF00F 15,
    opcodeRow 0x8007 0xF00F 16, opcodeRow 0x800E 0xF00F 17] := rfl
  rw [tableVariant_eq_rowsOf, hop, hrows]
  simp (disch := decide) only [firstVariant_cons, opcodeRow_selects_ends, hop, decodeFamily8]
  rcases nibble_cases (fieldN w) with h | h | h | h | h | h | h | h | h | h | h | h | h | h | h | h <;>
    rw [h] <;> rfl

/-- Family E (R82): the rows are told apart by kk. -/
theorem variantId_eq_table_of_familyE (hop : fieldOp w = 0xE#4) :
    (decodeFamilyE w).variantId? = tableVariant strict w := by
  have hrows : rowsOf 0xE#4 = [opcodeRow 0xE09E 0xF0FF 23, opcodeRow 0xE0A1 0xF0FF 24] := rfl
  rw [tableVariant_eq_rowsOf, hop, hrows]
  simp (disch := decide) only [firstVariant_cons, opcodeRow_selects_end_byte, hop, decodeFamilyE]
  split <;> simp_all [← BitVec.toNat_inj, opcodeRow, Instr.variantId]

/-- Family F (R83): the rows are told apart by kk. -/
theorem variantId_eq_table_of_familyF (hop : fieldOp w = 0xF#4) :
    (decodeFamilyF w).variantId? = tableVariant strict w := by
  have hrows : rowsOf 0xF#4 = [opcodeRow 0xF007 0xF0FF 25, opcodeRow 0xF00A 0xF0FF 26, opcodeRow 0xF015 0xF0FF 27,
    opcodeRow 0xF018 0xF0FF 28, opcodeRow 0xF01E 0xF0FF 29, opcodeRow 0xF029 0xF0FF 30, opcodeRow 0xF033 0xF0FF 31,
    opcodeRow 0xF055 0xF0FF 32, opcodeRow 0xF065 0xF0FF 33] := rfl
  rw [tableVariant_eq_rowsOf, hop, hrows]
  simp (disch := decide) only [firstVariant_cons, opcodeRow_selects_end_byte, hop, decodeFamilyF]
  split <;> simp_all [← BitVec.toNat_inj, opcodeRow, Instr.variantId]

end Families

/-- Settles O8: the dispatch and the table select by the top nibble first; then each family compares the same
fields. -/
theorem decoderAgreesWithTheOpcodeTable : Obligations.DecoderAgreesWithTheOpcodeTable := by
  intro strict w
  rcases nibble_cases (fieldOp w) with h | h | h | h | h | h | h | h | h | h | h | h | h | h | h | h <;>
    simp only [decodeWord, h]
  · exact variantId_eq_table_of_family0 h
  · exact (tableVariant_of_one_row rfl rfl h rfl).symm
  · exact (tableVariant_of_one_row rfl rfl h rfl).symm
  · exact (tableVariant_of_one_row rfl rfl h rfl).symm
  · exact (tableVariant_of_one_row rfl rfl h rfl).symm
  · exact variantId_eq_table_of_regSkip (p := 0x5000) rfl rfl h rfl rfl
  · exact (tableVariant_of_one_row rfl rfl h rfl).symm
  · exact (tableVariant_of_one_row rfl rfl h rfl).symm
  · exact variantId_eq_table_of_family8 h
  · exact variantId_eq_table_of_regSkip (p := 0x9000) rfl rfl h rfl rfl
  · exact (tableVariant_of_one_row rfl rfl h rfl).symm
  · exact (tableVariant_of_one_row rfl rfl h rfl).symm
  · exact (tableVariant_of_one_row rfl rfl h rfl).symm
  · exact (tableVariant_of_one_row rfl rfl h rfl).symm
  · exact variantId_eq_table_of_familyE h
  · exact variantId_eq_table_of_familyF h

/-! ### Words that fail (30_encoding.md R84) -/

section Failures
variable {w e : Word}

theorem decodeFamily0_ne_unknownOpcode : decodeFamily0 w ≠ .unknownOpcode e := by
  unfold decodeFamily0
  split
  · nofun
  · split <;> nofun

theorem decodeRegSkip_eq_unknownOpcode_iff {strict : Bool} {i : Instr} :
    decodeRegSkip strict i w = .unknownOpcode e ↔ e = w ∧ strict = true ∧ fieldN w ≠ 0x0#4 := by
  have hcond : (strict && fieldN w != 0x0#4) = true ↔ strict = true ∧ fieldN w ≠ 0x0#4 := by simp
  simp only [decodeRegSkip, hcond]
  split
  case isTrue h => simp [h, eq_comm]
  case isFalse h => simp [h]

theorem decodeFamily8_eq_unknownOpcode_iff : decodeFamily8 w = .unknownOpcode e ↔
    e = w ∧ fieldN w ∈ [0x8#4, 0x9#4, 0xA#4, 0xB#4, 0xC#4, 0xD#4, 0xF#4] := by
  rcases nibble_cases (fieldN w) with h | h | h | h | h | h | h | h | h | h | h | h | h | h | h | h <;>
    simp [decodeFamily8, h, eq_comm]

theorem decodeFamilyE_eq_unknownOpcode_iff : decodeFamilyE w = .unknownOpcode e ↔
    e = w ∧ fieldKk w ∉ [0x9E#8, 0xA1#8] := by
  unfold decodeFamilyE
  split <;> simp_all [← BitVec.toNat_inj, eq_comm]

theorem decodeFamilyF_eq_unknownOpcode_iff : decodeFamilyF w = .unknownOpcode e ↔
    e = w ∧ fieldKk w ∉ [0x07#8, 0x0A#8, 0x15#8, 0x18#8, 0x1E#8, 0x29#8, 0x33#8, 0x55#8, 0x65#8] := by
  unfold decodeFamilyF
  split <;> simp_all [← BitVec.toNat_inj, eq_comm]

end Failures

/-- Settles O6: by the top nibble, and in each family that has failing words by its own `iff`. -/
theorem decodeFailsExactlyOnTheListedWords : Obligations.DecodeFailsExactlyOnTheListedWords := by
  intro strict w e
  rcases nibble_cases (fieldOp w) with h | h | h | h | h | h | h | h | h | h | h | h | h | h | h | h <;>
    simp [decodeWord, h, decodeFamily0_ne_unknownOpcode, decodeRegSkip_eq_unknownOpcode_iff,
      decodeFamily8_eq_unknownOpcode_iff, decodeFamilyE_eq_unknownOpcode_iff, decodeFamilyF_eq_unknownOpcode_iff]

/-- Settles O5: under `STRICT_5_9` by the `iff` of the register skips; else n is not looked at. -/
theorem strict59DecidesRegisterSkipsWithNonzeroN : Obligations.Strict59DecidesRegisterSkipsWithNonzeroN := by
  intro x y n hn
  simp [decodeWord, decodeRegSkip, hn]

/-! ### Encoding what a word decodes to (30_encoding.md section 3) -/

/-- The word that the encoder writes for an instruction that `w` decodes to (log 19). -/
def writtenFor (w : Word) : Instr → Word
  | .jump _ => 0x1000#16 ||| (w &&& 0x0FFF#16)
  | .shr _ => w &&& 0xFF0F#16
  | .shl _ => w &&& 0xFF0F#16
  | .skipEqualReg _ _ => w &&& 0xFFF0#16
  | .skipNotEqualReg _ _ => w &&& 0xFFF0#16
  | _ => w

/-- A decoder's answer whose instruction, if it is one, is encoded as `writtenFor w` says. -/
def WritesBack (w : Word) (d : Decoded) : Prop := ∀ i, d = .instr i → encode i = writtenFor w i

section WritesBack
variable {w : Word}

theorem WritesBack.instr {i : Instr} (h : encode i = writtenFor w i) : WritesBack w (.instr i) := by
  rintro _ ⟨⟩
  exact h

theorem WritesBack.unknownOpcode {e : Word} : WritesBack w (.unknownOpcode e) := nofun

theorem append_addr_of_fieldOp {op : Nibble} (hop : fieldOp w = op) : op ++ fieldAddr w = w := by
  rw [← hop, nibble_append_addr]

theorem append_byte_of_fieldOp {op : Nibble} (hop : fieldOp w = op) : op ++ fieldX w ++ fieldKk w = w := by
  rw [← hop, nibble_append_reg_append_byte]

theorem append_nibbles_of_fieldOp {op : Nibble} (hop : fieldOp w = op) :
    op ++ fieldX w ++ fieldY w ++ fieldN w = w := by
  rw [← hop, append_four_nibbles]

/-- A jump is written 1nnn whatever its word's top nibble was. -/
theorem jumpWord_eq (w : Word) : 0x1#4 ++ fieldAddr w = 0x1000#16 ||| (w &&& 0x0FFF#16) := by
  apply BitVec.eq_of_getLsbD_eq; intro i hi
  rw [getLsbD_addr]
  interval_cases i <;> simp [fieldAddr]

/-- The mask 0xFFF0 writes n as 0. -/
theorem and_FFF0 (w : Word) : w &&& 0xFFF0#16 = fieldOp w ++ fieldX w ++ fieldY w ++ 0x0#4 := by
  apply BitVec.eq_of_getLsbD_eq; intro i hi
  rw [getLsbD_nibble]
  interval_cases i <;> simp [fieldOp, fieldX, fieldY]

/-- The mask 0xFF0F writes y as 0. -/
theorem and_FF0F (w : Word) : w &&& 0xFF0F#16 = fieldOp w ++ fieldX w ++ 0x0#4 ++ fieldN w := by
  apply BitVec.eq_of_getLsbD_eq; intro i hi
  rw [getLsbD_nibble]
  interval_cases i <;> simp [fieldOp, fieldX, fieldN]

theorem writesBack_decodeFamily0 : WritesBack w (decodeFamily0 w) := by
  unfold decodeFamily0
  split
  case isTrue h => exact .instr h.symm
  case isFalse =>
    split
    case isTrue h => exact .instr h.symm
    case isFalse => exact .instr (jumpWord_eq w)

theorem writesBack_decodeRegSkip {strict : Bool} {i : Instr} (h : encode i = writtenFor w i) :
    WritesBack w (decodeRegSkip strict i w) := by
  unfold decodeRegSkip
  split
  · exact .unknownOpcode
  · exact .instr h

theorem writesBack_decodeFamily8 (hop : fieldOp w = 0x8#4) : WritesBack w (decodeFamily8 w) := by
  have hw := append_nibbles_of_fieldOp hop
  have hshift := and_FF0F w
  rw [hop] at hshift
  rcases nibble_cases (fieldN w) with h | h | h | h | h | h | h | h | h | h | h | h | h | h | h | h <;>
    rw [h] at hw hshift <;> simp only [decodeFamily8, h]
  · exact .instr hw
  · exact .instr hw
  · exact .instr hw
  · exact .instr hw
  · exact .instr hw
  · exact .instr hw
  · exact .instr hshift.symm
  · exact .instr hw
  · exact .unknownOpcode
  · exact .unknownOpcode
  · exact .unknownOpcode
  · exact .unknownOpcode
  · exact .unknownOpcode
  · exact .unknownOpcode
  · exact .instr hshift.symm
  · exact .unknownOpcode

theorem writesBack_decodeFamilyE (hop : fieldOp w = 0xE#4) : WritesBack w (decodeFamilyE w) := by
  have hw (k : Byte) (hk : fieldKk w = k) : 0xE#4 ++ fieldX w ++ k = w := hk ▸ append_byte_of_fieldOp hop
  unfold decodeFamilyE
  split
  case h_1 hk => exact .instr (hw _ (BitVec.eq_of_toNat_eq hk))
  case h_2 hk => exact .instr (hw _ (BitVec.eq_of_toNat_eq hk))
  case h_3 => exact .unknownOpcode

theorem writesBack_decodeFamilyF (hop : fieldOp w = 0xF#4) : WritesBack w (decodeFamilyF w) := by
  have hw (k : Byte) (hk : fieldKk w = k) : 0xF#4 ++ fieldX w ++ k = w := hk ▸ append_byte_of_fieldOp hop
  unfold decodeFamilyF
  split
  case h_10 => exact .unknownOpcode
  all_goals
    rename_i hk
    exact .instr (hw _ (BitVec.eq_of_toNat_eq hk))

end WritesBack

theorem writesBack_decodeWord (strict : Bool) (w : Word) : WritesBack w (decodeWord strict w) := by
  have hskip (op : Nibble) (hop : fieldOp w = op) : op ++ fieldX w ++ fieldY w ++ 0x0#4 = w &&& 0xFFF0#16 := by
    rw [and_FFF0, hop]
  rcases nibble_cases (fieldOp w) with h | h | h | h | h | h | h | h | h | h | h | h | h | h | h | h <;>
    simp only [decodeWord, h]
  · exact writesBack_decodeFamily0
  · exact .instr (jumpWord_eq w)
  · exact .instr (append_addr_of_fieldOp h)
  · exact .instr (append_byte_of_fieldOp h)
  · exact .instr (append_byte_of_fieldOp h)
  · exact writesBack_decodeRegSkip (hskip _ h)
  · exact .instr (append_byte_of_fieldOp h)
  · exact .instr (append_byte_of_fieldOp h)
  · exact writesBack_decodeFamily8 h
  · exact writesBack_decodeRegSkip (hskip _ h)
  · exact .instr (append_addr_of_fieldOp h)
  · exact .instr (append_addr_of_fieldOp h)
  · exact .instr (append_byte_of_fieldOp h)
  · exact .instr (append_nibbles_of_fieldOp h)
  · exact writesBack_decodeFamilyE h
  · exact writesBack_decodeFamilyF h

/-- Settles O2, by `writesBack_decodeWord`. -/
theorem encodingADecodedWordGivesTheWordBack : Obligations.EncodingADecodedWordGivesTheWordBack := by
  intro strict w i h
  rw [writesBack_decodeWord strict w i h]
  cases i <;> rfl

/-! ### The decoder's ports (30_encoding.md R85, R86) -/

theorem Instr.variantId_lt (i : Instr) : i.variantId.toNat < 34 := by
  cases i <;> simp [Instr.variantId]

/-- R71: kk is y and n. -/
theorem fieldY_append_fieldN (w : Word) : (fieldY w ++ fieldN w : BitVec 8) = fieldKk w := by
  apply BitVec.eq_of_getLsbD_eq; intro i hi
  rw [BitVec.getLsbD_append]
  interval_cases i <;> simp [fieldY, fieldN, fieldKk]

/-- R71: addr is x, y and n. -/
theorem fieldX_append_fieldKk (w : Word) : (fieldX w ++ fieldKk w : BitVec 12) = fieldAddr w := by
  apply BitVec.eq_of_getLsbD_eq; intro i hi
  rw [BitVec.getLsbD_append]
  interval_cases i <;> simp [fieldX, fieldKk, fieldAddr]

theorem fieldX_append_fieldY_append_fieldN (w : Word) :
    (fieldX w ++ fieldY w ++ fieldN w : BitVec 12) = fieldAddr w := by
  apply BitVec.eq_of_getLsbD_eq; intro i hi
  rw [BitVec.getLsbD_append, BitVec.getLsbD_append]
  interval_cases i <;> simp [fieldX, fieldY, fieldN, fieldAddr]

theorem decoderPorts_wf (strict : Bool) (w : Word) : (decoderPorts strict w).wf = true := by
  have hrange : (decoderPorts strict w).variantInRange = true := by
    unfold DecoderOut.variantInRange decoderPorts
    cases decodeWord strict w with
    | instr i => simpa using i.variantId_lt
    | unknownOpcode e => rfl
  rw [DecoderOut.wf, hrange]
  simp [DecoderOut.variantPresent, DecoderOut.fieldsOverlap, DecoderOut.fieldsFromWord, decoderPorts,
    fieldY_append_fieldN, fieldX_append_fieldY_append_fieldN, fieldAddr]

/-- Settles O7: the ports are the fields of the word and the decoder's answer. -/
theorem decoderPortsShowTheDecoding : Obligations.DecoderPortsShowTheDecoding := by
  intro strict w
  refine ⟨decoderPorts_wf strict w, fun i h => ?_, fun e h => ?_, fieldX_append_fieldKk w, rfl⟩
  · simp [decoderPorts, h]
  · simp [decoderPorts, h]

end Sys2Proof

/-! Frames of the other named updates, and fault entry (60_exceptions.md R286, R287). -/

namespace Sys2Proof.Machine

theorem OnlyChanges.refl (s : State) : OnlyChanges [] s s := by
  intro p hp
  cases p <;> simp [Unchanged]

theorem OnlyChanges.mono {ps qs : List Part} {s t : State} (h : OnlyChanges ps s t) (hsub : ps ⊆ qs) :
    OnlyChanges qs s t :=
  fun p hp => h p fun hin => hp (hsub hin)

theorem onlyChanges_raise (s : State) (code : FaultCode) (info : Word) :
    OnlyChanges [.record, .resp, .loadPort] s (s.raise code info) := by
  intro p hp
  cases p <;> simp_all [Unchanged]

theorem faultEntered_raise (s : State) (code : FaultCode) (info : Word) :
    FaultEntered code info s (s.raise code info) :=
  ⟨rfl, rfl, rfl, rfl, rfl, onlyChanges_raise s code info⟩

theorem onlyChanges_drawRunning (s : State) : OnlyChanges [.running] s s.drawRunning := by
  intro p hp
  cases p <;> simp_all [Unchanged]

theorem onlyChanges_drawKeyPoll (s : State) : OnlyChanges [.keyPolls] s s.drawKeyPoll := by
  intro p hp
  cases p <;> simp_all [Unchanged]

theorem onlyChanges_halt (s : State) : OnlyChanges [.resp, .loadPort] s s.halt := by
  intro p hp
  cases p <;> simp_all [Unchanged]

theorem onlyChanges_repeatFault (s : State) : OnlyChanges [.resp] s s.repeatFault := by
  intro p hp
  cases p <;> simp_all [Unchanged]

theorem onlyChanges_aluFlagLast (s : State) (op : AluOp) (x : Reg) (b : Byte) :
    OnlyChanges [.regs] s (s.aluFlagLast op x b) := by
  intro p hp
  cases p <;> simp_all [Unchanged]

theorem onlyChanges_aluFlagged (s : State) (op : AluOp) (x : Reg) (g : State → Byte) :
    OnlyChanges [.regs] s (s.aluFlagged op x g) := by
  intro p hp
  cases p <;> simp_all [Unchanged]

theorem onlyChanges_setRegsFrom (s : State) (k : Nat) (bs : List Byte) :
    OnlyChanges [.regs] s (s.setRegsFrom k bs) := by
  intro p hp
  cases p <;> simp_all [Unchanged]

theorem onlyChanges_blit (s : State) (bs : List Byte) (x y : Byte) :
    OnlyChanges [.regs, .screen, .collision] s (s.blit bs x y) := by
  intro p hp
  cases p <;> simp_all [Unchanged]

theorem onlyChanges_setIndex (s : State) (w : Word) : OnlyChanges [.index] s { s with i := w } := by
  intro p hp
  cases p <;> simp_all [Unchanged, State.reg]

theorem onlyChanges_setMemory (s : State) (m : Memory) : OnlyChanges [.memory] s { s with mem := m } := by
  intro p hp
  cases p <;> simp_all [Unchanged, State.reg]

theorem onlyChanges_setStack (s : State) (sp : Fin 17) (stack : Vector Word 16) :
    OnlyChanges [.stack] s { s with sp := sp, stack := stack } := by
  intro p hp
  cases p <;> simp_all [Unchanged, State.reg]

theorem onlyChanges_setDelay (s : State) (b : Byte) : OnlyChanges [.delay] s { s with dt := b } := by
  intro p hp
  cases p <;> simp_all [Unchanged, State.reg]

theorem onlyChanges_setSound (s : State) (b : Byte) : OnlyChanges [.sound] s { s with st := b } := by
  intro p hp
  cases p <;> simp_all [Unchanged, State.reg]

/-- A completed cycle that changes nothing of its own. -/
theorem cycleEnds_of_nothing (s : State) (nextPc : Word) : CycleEnds nextPc [] s (s.endCycle nextPc) :=
  cycleEnds_endCycle nextPc (.refl s) nofun nofun

end Sys2Proof.Machine

/-! Control transfer (41_control_flow.md). -/

namespace Sys2Proof.Machine

/-- The state after `Call` has pushed the address of the next word (R121). -/
def State.pushReturn (s : State) (h : s.sp.val < 16) : State :=
  { s with stack := s.stack.set s.sp.val (s.pc + 2) h, sp := ⟨s.sp.val + 1, Nat.succ_lt_succ h⟩ }

theorem onlyChanges_pushReturn (s : State) (h : s.sp.val < 16) : OnlyChanges [.stack] s (s.pushReturn h) :=
  onlyChanges_setStack s _ _

theorem State.pushReturn_sp (s : State) (h : s.sp.val < 16) : (s.pushReturn h).sp.val = s.sp.val + 1 := rfl

theorem State.pushReturn_top (s : State) (h : s.sp.val < 16) : (s.pushReturn h).stack[s.sp.val] = s.pc + 2 := by
  simp [State.pushReturn]

theorem State.pushReturn_other (s : State) (h : s.sp.val < 16) {k : Nat} (hk : k < 16) (hne : k ≠ s.sp.val) :
    (s.pushReturn h).stack[k] = s.stack[k] := by
  simp [State.pushReturn, hne.symm]

theorem exec_jump (a : Addr) (s : State) : exec (.jump a) s = .next (s.endCycle (a.zeroExtend 16)) := rfl

theorem exec_call_of_lt (a : Addr) {s : State} (h : s.sp.val < 16) :
    exec (.call a) s = .next ((s.pushReturn h).endCycle (a.zeroExtend 16)) :=
  dif_pos h

theorem exec_call_of_full (a : Addr) {s : State} (h : s.sp.val = 16) :
    exec (.call a) s = .next (s.raise .stackOverflow (a.zeroExtend 16)) :=
  dif_neg (by omega)

theorem exec_ret_of_pos {s : State} {k : Nat} (hk : k < 16) (h : s.sp.val = k + 1) :
    exec .ret s = .next ({ s with sp := ⟨k, by omega⟩ }.endCycle s.stack[k]) := by
  have hsub : s.sp.val - 1 = k := by omega
  have hne : ¬ s.sp.val = 0 := by omega
  simp only [exec, execRet, hne, hsub, dif_neg, not_false_eq_true]

theorem exec_ret_of_empty {s : State} (h : s.sp.val = 0) :
    exec .ret s = .next (s.raise .stackUnderflow 0x0000#16) :=
  dif_pos h

theorem exec_jumpV0 (a : Addr) (s : State) : exec (.jumpV0 a) s = .next (s.endCycle (s.jumpV0Target a)) := rfl

/-- R123, D22: the sum of a 12-bit address and a byte fits in 16 bits. -/
theorem State.jumpV0Target_toNat (s : State) (a : Addr) :
    (s.jumpV0Target a).toNat = a.toNat + (s.reg 0x0#4).toNat := by
  have ha := a.isLt
  have hb := (s.reg 0x0#4).isLt
  simp [State.jumpV0Target, addrWord, byteWord]
  omega

theorem exec_skipEqualByte (x : Reg) (kk : Byte) (s : State) : exec (.skipEqualByte x kk) s =
    .next (s.endCycle (if s.reg x = kk then s.pc + 4 else s.pc + 2)) := by
  simp [exec, execSkipEqualByte, State.endSkip]

theorem exec_skipNotEqualByte (x : Reg) (kk : Byte) (s : State) : exec (.skipNotEqualByte x kk) s =
    .next (s.endCycle (if s.reg x = kk then s.pc + 2 else s.pc + 4)) := by
  simp [exec, execSkipNotEqualByte, State.endSkip]

theorem exec_skipEqualReg (x y : Reg) (s : State) : exec (.skipEqualReg x y) s =
    .next (s.endCycle (if s.reg x = s.reg y then s.pc + 4 else s.pc + 2)) := by
  simp [exec, execSkipEqualReg, State.endSkip]

theorem exec_skipNotEqualReg (x y : Reg) (s : State) : exec (.skipNotEqualReg x y) s =
    .next (s.endCycle (if s.reg x = s.reg y then s.pc + 2 else s.pc + 4)) := by
  simp [exec, execSkipNotEqualReg, State.endSkip]

/-- Settles O24: 1nnn is the encoder's word; 0nnn goes to family 0, whose two exact words are excluded. -/
theorem jumpSetsPcToItsAddress : Obligations.JumpSetsPcToItsAddress := by
  intro a s
  refine ⟨encodes_encode (.jump a), fun hclear hret strict => ?_, _, exec_jump a s, cycleEnds_of_nothing s _⟩
  rw [decodeWord_of_fieldOp_zero strict (fieldOp_addr 0x0#4 a), decodeFamily0, if_neg hclear, if_neg hret,
    fieldAddr_addr]

/-- Settles O25: by whether an entry is free. -/
theorem callPushesTheNextAddressOrOverflows : Obligations.CallPushesTheNextAddressOrOverflows := by
  intro a s
  refine ⟨encodes_encode (.call a), fun h => ⟨_, exec_call_of_lt a h, ?_, s.pushReturn_sp h, s.pushReturn_top h,
    fun k hk hne => s.pushReturn_other h hk hne⟩, fun h => ⟨_, exec_call_of_full a h, faultEntered_raise s _ _⟩⟩
  exact cycleEnds_endCycle _ (onlyChanges_pushReturn s h) (by decide) (by decide)

/-- Settles O26: by whether an entry is there. -/
theorem returnPopsTheNewestEntryOrUnderflows : Obligations.ReturnPopsTheNewestEntryOrUnderflows := by
  intro s
  refine ⟨encodes_encode .ret, fun k hk h => ⟨_, exec_ret_of_pos hk h, ?_, rfl, rfl⟩,
    fun h => ⟨_, exec_ret_of_empty h, faultEntered_raise s _ _⟩⟩
  exact cycleEnds_endCycle _ (onlyChanges_setStack s _ s.stack) (by decide) (by decide)

/-- Settles O28, with the exact sum of `State.jumpV0Target_toNat`. -/
theorem jumpV0AddsV0ToItsAddress : Obligations.JumpV0AddsV0ToItsAddress := by
  intro a s
  exact ⟨encodes_encode (.jumpV0 a), _, exec_jumpV0 a s, s.jumpV0Target_toNat a, cycleEnds_of_nothing s _⟩

/-- Settles O29: each skip is a cycle that ends at one of two places. -/
theorem byteSkipsCompareVxWithKk : Obligations.ByteSkipsCompareVxWithKk := by
  intro x kk s
  exact ⟨encodes_encode (.skipEqualByte x kk), encodes_encode (.skipNotEqualByte x kk),
    ⟨_, exec_skipEqualByte x kk s, cycleEnds_of_nothing s _⟩,
    ⟨_, exec_skipNotEqualByte x kk s, cycleEnds_of_nothing s _⟩⟩

/-- Settles O30: the strict clause is that of `strict59DecidesRegisterSkipsWithNonzeroN`. -/
theorem registerSkipsCompareVxWithVy : Obligations.RegisterSkipsCompareVxWithVy := by
  intro x y s
  refine ⟨encodes_encode (.skipEqualReg x y), encodes_encode (.skipNotEqualReg x y), fun n hn i => ?_,
    ⟨_, exec_skipEqualReg x y s, cycleEnds_of_nothing s _⟩,
    ⟨_, exec_skipNotEqualReg x y s, cycleEnds_of_nothing s _⟩⟩
  obtain ⟨h5, h9, -⟩ := strict59DecidesRegisterSkipsWithNonzeroN x y n hn
  rw [h5, h9]
  exact ⟨nofun, nofun⟩

/-! ### Nested calls (R122) -/

theorem execAll_cons_of_next {i : Instr} {s t : State} (h : exec i s = .next t) (is : List Instr) :
    execAll (i :: is) s = execAll is t := by
  simp only [execAll, h]

theorem execAll_append {is : List Instr} {s t : State} (h : execAll is s = some t) (js : List Instr) :
    execAll (is ++ js) s = execAll js t := by
  induction is generalizing s with
  | nil => cases h; rfl
  | cons i is ih =>
    obtain ⟨u, hu⟩ : ∃ u, exec i s = .next u := by
      cases hu : exec i s with
      | next u => exact ⟨u, rfl⟩
      | fault r => simp [execAll, hu] at h
      | refused r => simp [execAll, hu] at h
    rw [execAll_cons_of_next hu] at h
    rw [List.cons_append, execAll_cons_of_next hu, ih h]

/-- `t` is where `s`'s caller goes on: the stack below `sp`, `sp` and the registers as in `s`. -/
structure ReturnsAs (s t : State) : Prop where
  sp : t.sp = s.sp
  below : ∀ k (h : k < 16), k < s.sp.val → t.stack[k] = s.stack[k]
  regs : ∀ r, t.reg r = s.reg r

/-- A balanced body between a call and its return leaves the pushed address on top, so the return goes to the
instruction after the call. -/
theorem call_body_ret (a : Addr) {body : List Instr} {s u : State} (h : s.sp.val < 16)
    (hbody : execAll body ((s.pushReturn h).endCycle (a.zeroExtend 16)) = some u)
    (hu : ReturnsAs ((s.pushReturn h).endCycle (a.zeroExtend 16)) u) :
    ∃ t, execAll (.call a :: (body ++ [.ret])) s = some t ∧ t.pc = s.pc + 2 ∧ ReturnsAs s t := by
  have husp : u.sp.val = s.sp.val + 1 := by rw [hu.sp, State.endCycle_sp, State.pushReturn_sp]
  have hbelow (k : Nat) (hk : k < 16) (hlt : k < s.sp.val + 1) : u.stack[k] = (s.pushReturn h).stack[k] :=
    hu.below k hk hlt
  have hrun : execAll (.call a :: (body ++ [.ret])) s =
      some ({ u with sp := ⟨s.sp.val, by omega⟩ }.endCycle u.stack[s.sp.val]) := by
    rw [execAll_cons_of_next (exec_call_of_lt a h), execAll_append hbody,
      execAll_cons_of_next (exec_ret_of_pos h husp)]
    rfl
  refine ⟨_, hrun, ?_, rfl, fun k hk hlt => ?_, hu.regs⟩
  · exact (hbelow _ h (by omega)).trans (s.pushReturn_top h)
  · exact (hbelow k hk (by omega)).trans (s.pushReturn_other h hk (by omega))

theorem nested_calls_return (as : List Addr) (s : State) (hfit : s.sp.val + as.length ≤ 16) :
    ∃ t, execAll (as.map Instr.call ++ List.replicate as.length .ret) s = some t ∧
      (as ≠ [] → t.pc = s.pc + 2) ∧ ReturnsAs s t := by
  induction as generalizing s with
  | nil => exact ⟨s, rfl, nofun, rfl, fun _ _ _ => rfl, fun _ => rfl⟩
  | cons a as ih =>
    rw [List.length_cons] at hfit
    have h : s.sp.val < 16 := by omega
    obtain ⟨u, hbody, -, hu⟩ := ih ((s.pushReturn h).endCycle (a.zeroExtend 16)) (by
      rw [State.endCycle_sp, State.pushReturn_sp]; omega)
    obtain ⟨t, ht, hpc, hret⟩ := call_body_ret a h hbody hu
    refine ⟨t, ?_, fun _ => hpc, hret⟩
    rwa [List.length_cons, List.replicate_succ', ← List.append_assoc]

/-- Settles O27, by induction on the calls: see `nested_calls_return`. -/
theorem nestedCallsReturnToTheFirstCaller : Obligations.NestedCallsReturnToTheFirstCaller := by
  intro a as s hfit
  obtain ⟨t, ht, hpc, hret⟩ := nested_calls_return (a :: as) s (by rw [List.length_cons]; omega)
  exact ⟨t, ht, hpc nofun, hret.sp, hret.below, hret.regs⟩

end Sys2Proof.Machine

/-! The ALU instructions (42_alu_and_regfile.md). Each is a register update and the end of the cycle. -/

namespace Sys2Proof.Machine

open Sys2Proof.Config

section WithoutFlag
variable (x y : Reg) (kk : Byte) (s : State)

theorem exec_loadByte : exec (.loadByte x kk) s = .next ((s.setReg x kk).endCycle (s.pc + 2)) := rfl
theorem exec_addByte : exec (.addByte x kk) s = .next ((s.setReg x (s.reg x + kk)).endCycle (s.pc + 2)) := rfl
theorem exec_move : exec (.move x y) s = .next ((s.setReg x (s.reg y)).endCycle (s.pc + 2)) := rfl
theorem exec_or : exec (.or x y) s = .next ((s.setReg x (s.reg x ||| s.reg y)).endCycle (s.pc + 2)) := rfl
theorem exec_and : exec (.and x y) s = .next ((s.setReg x (s.reg x &&& s.reg y)).endCycle (s.pc + 2)) := rfl
theorem exec_xor : exec (.xor x y) s = .next ((s.setReg x (s.reg x ^^^ s.reg y)).endCycle (s.pc + 2)) := rfl

end WithoutFlag

/-- A cycle that writes one register. -/
theorem cycleEnds_setReg (s : State) (x : Reg) (b : Byte) (nextPc : Word) :
    CycleEnds nextPc [.regs] s ((s.setReg x b).endCycle nextPc) :=
  cycleEnds_endCycle nextPc (onlyChanges_setReg s x b) (by decide) (by decide)

/-- Settles O31: each is one register write. -/
theorem loadAddByteAndMoveWriteVxOnly : Obligations.LoadAddByteAndMoveWriteVxOnly := by
  intro x y kk s
  refine ⟨encodes_encode (.loadByte x kk), encodes_encode (.addByte x kk), encodes_encode (.move x y),
    ⟨_, exec_loadByte x kk s, cycleEnds_setReg s x _ _, fun r => s.reg_setReg x r _⟩,
    ⟨_, exec_addByte x kk s, cycleEnds_setReg s x _ _, ?_, fun r hr => s.reg_setReg_of_ne _ hr⟩,
    ⟨_, exec_move x y s, cycleEnds_setReg s x _ _, fun r => s.reg_setReg x r _⟩⟩
  simp

/-- Settles O32: each is one register write, read bit by bit. -/
theorem bitwiseOpsWriteVxOnly : Obligations.BitwiseOpsWriteVxOnly := by
  intro x y s
  refine ⟨encodes_encode (.or x y), encodes_encode (.and x y), encodes_encode (.xor x y),
    ⟨_, exec_or x y s, cycleEnds_setReg s x _ _, fun k => ?_, fun r hr => s.reg_setReg_of_ne _ hr⟩,
    ⟨_, exec_and x y s, cycleEnds_setReg s x _ _, fun k => ?_, fun r hr => s.reg_setReg_of_ne _ hr⟩,
    ⟨_, exec_xor x y s, cycleEnds_setReg s x _ _, fun k => ?_, fun r hr => s.reg_setReg_of_ne _ hr⟩⟩ <;>
  simp

/-! ### `Add` (R158) -/

theorem exec_add (x y : Reg) (s : State) :
    exec (.add x y) s = .next ((s.aluFlagLast .add x (s.reg y)).endCycle (s.pc + 2)) := by
  rw [← State.aluFlagLast_pc s .add x (s.reg y)]; rfl

/-- Settles O33: the three answers of the ALU's flag output are the first three branches. -/
theorem addWritesSumAndCarry : Obligations.AddWritesSumAndCarry := by
  intro x y s
  refine ⟨encodes_encode (.add x y), _, exec_add x y s,
    cycleEnds_endCycle _ (onlyChanges_aluFlagLast s .add x _) (by decide) (by decide), fun r => ?_⟩
  have hsum : s.reg x + s.reg y = BitVec.ofNat 8 ((s.reg x).toNat + (s.reg y).toNat) := by
    apply BitVec.eq_of_toNat_eq; simp
  rw [State.endCycle_reg, State.reg_aluFlagLast, State.alu_eq, alu, hsum]
  by_cases hcarry : 0xFF < (s.reg x).toNat + (s.reg y).toNat
  · by_cases hr : r = vf <;> simp [hcarry, flagByte, hr]
  · cases hclear : s.params.addClearsVf <;> simp [hcarry, flagByte]

/-! ### `Sub`, `Shr`, `Subn` and `Shl` in the order of `VF_ORDER` (R165) -/

section Rows
variable (c : Bool) (a b : Byte)

theorem alu_sub : alu c .sub a b = ⟨a - b, some (b < a)⟩ := rfl
theorem alu_shr : alu c .shr a b = ⟨a / 2, some (a.getLsbD 0)⟩ := rfl
theorem alu_subn : alu c .subn a b = ⟨b - a, some (a < b)⟩ := rfl
theorem alu_shl : alu c .shl a b = ⟨a * 2, some (a.getLsbD 7)⟩ := rfl

end Rows

section Flagged
variable {s : State} {op : AluOp} {x : Reg} {g : State → Byte} {f : Bool}

theorem reg_aluFlagged_of_sequential (h : s.params.vfOrder = .sequential)
    (hf : (s.alu op (s.reg x) (g s)).flag = some f) (r : Reg) :
    (s.aluFlagged op x g).reg r =
      if r = x then (s.alu op ((s.setReg vf (flagByte f)).reg x) (g (s.setReg vf (flagByte f)))).result
      else (s.setReg vf (flagByte f)).reg r := by
  rw [State.reg_aluFlagged_sequential s op x g r h, hf]
  rfl

theorem reg_aluFlagged_of_latched (h : s.params.vfOrder = .latched)
    (hf : (s.alu op (s.reg x) (g s)).flag = some f) (r : Reg) :
    (s.aluFlagged op x g).reg r =
      if r = vf then flagByte f else if r = x then (s.alu op (s.reg x) (g s)).result else s.reg r := by
  rw [State.aluFlagged_latched s op x g h, State.reg_aluFlagLast, hf]

end Flagged

theorem cycleEnds_aluFlagged (s : State) (op : AluOp) (x : Reg) (g : State → Byte) :
    CycleEnds (s.pc + 2) [.regs] s ((s.aluFlagged op x g).endCycle (s.pc + 2)) :=
  cycleEnds_endCycle _ (onlyChanges_aluFlagged s op x g) (by decide) (by decide)

section
variable (x y : Reg) (s : State)

theorem exec_sub : exec (.sub x y) s = .next ((s.aluFlagged .sub x (·.reg y)).endCycle (s.pc + 2)) := by
  rw [← State.aluFlagged_pc s .sub x (·.reg y)]; rfl
theorem exec_shr : exec (.shr x) s = .next ((s.aluFlagged .shr x fun _ => 0x00#8).endCycle (s.pc + 2)) := by
  rw [← State.aluFlagged_pc s .shr x fun _ => 0x00#8]; rfl
theorem exec_shl : exec (.shl x) s = .next ((s.aluFlagged .shl x fun _ => 0x00#8).endCycle (s.pc + 2)) := by
  rw [← State.aluFlagged_pc s .shl x fun _ => 0x00#8]; rfl

end

/-- A comparison's flag on numbers. -/
theorem flagByte_lt (a b : Byte) :
    flagByte (a < b) = if a.toNat < b.toNat then 0x01#8 else 0x00#8 := by
  simp [flagByte, BitVec.lt_def]

/-- Settles O34, in each order. -/
theorem subWritesDifferenceAndNotBorrow : Obligations.SubWritesDifferenceAndNotBorrow := by
  intro x y s
  refine ⟨encodes_encode (.sub x y), _, exec_sub x y s, cycleEnds_aluFlagged s .sub x _, fun r => ?_⟩
  rw [State.endCycle_reg, ← flagByte_lt]
  cases h : s.params.vfOrder with
  | sequential => rw [reg_aluFlagged_of_sequential h rfl]; simp [State.reg_setReg, alu_sub]
  | latched => rw [reg_aluFlagged_of_latched h rfl]; simp [alu_sub]

/-- Settles O35, in each order. -/
theorem shiftsMoveTheBitShiftedOutToVf : Obligations.ShiftsMoveTheBitShiftedOutToVf := by
  intro x y s
  refine ⟨fun strict => by simp [decodeWord, decodeFamily8], fun strict => by simp [decodeWord, decodeFamily8],
    ⟨_, exec_shr x s, cycleEnds_aluFlagged s .shr x _, fun r => ?_⟩,
    ⟨_, exec_shl x s, cycleEnds_aluFlagged s .shl x _, fun r => ?_⟩⟩
  · rw [State.endCycle_reg]
    cases h : s.params.vfOrder with
    | sequential =>
      rw [reg_aluFlagged_of_sequential h rfl]
      simp [State.reg_setReg, alu_shr, apply_ite BitVec.toNat, flagByte]
    | latched => rw [reg_aluFlagged_of_latched h rfl]; simp [alu_shr, apply_ite BitVec.toNat, flagByte]
  · rw [State.endCycle_reg]
    cases h : s.params.vfOrder with
    | sequential =>
      rw [reg_aluFlagged_of_sequential h rfl]
      simp [State.reg_setReg, alu_shl, apply_ite BitVec.toNat, apply_ite (· % 256), flagByte]
    | latched => rw [reg_aluFlagged_of_latched h rfl]; simp [alu_shl, apply_ite BitVec.toNat, flagByte]

/-! ### `Subn` (R161) -/

theorem exec_subn_of_fault {x y : Reg} {s : State} (h : s.params.subnUnderflow = .fault)
    (hu : s.subnUnderflows x y = true) :
    exec (.subn x y) s = .next (s.raise .subnUnderflow (s.reg y ++ s.reg x)) :=
  if_pos ⟨h, hu⟩

theorem exec_subn_of_not {x y : Reg} {s : State}
    (h : ¬ (s.params.subnUnderflow = .fault ∧ s.subnUnderflows x y = true)) :
    exec (.subn x y) s = .next ((s.aluFlagged .subn x (·.reg y)).endCycle (s.pc + 2)) := by
  rw [← State.aluFlagged_pc s .subn x (·.reg y)]
  exact if_neg h

/-- The registers that the subtraction of `Subn` is taken of: those after the flag write under `sequential`, those
before it under `latched`. -/
theorem reg_resultSource_subn (s : State) (x y r : Reg) :
    (s.resultSource .subn x (·.reg y)).reg r =
      match s.params.vfOrder with
      | .sequential => if r = vf then flagByte (s.reg x < s.reg y) else s.reg r
      | .latched => s.reg r := by
  rw [State.resultSource]
  cases s.params.vfOrder with
  | sequential => rw [State.alu_eq, alu_subn, State.reg_writeFlag]
  | latched => rfl

theorem subnUnderflows_iff (s : State) (x y : Reg) : s.subnUnderflows x y = true ↔
    ((s.resultSource .subn x (·.reg y)).reg y).toNat < ((s.resultSource .subn x (·.reg y)).reg x).toNat := by
  rw [State.subnUnderflows, decide_eq_true_iff, BitVec.lt_def]

/-- Settles O36: by whether the parameter and the subtraction ask for the fault; the completed cycle in each order. -/
theorem subnWritesDifferenceOrUnderflows : Obligations.SubnWritesDifferenceOrUnderflows := by
  intro x y s flag now
  have hflag : flag = flagByte (s.reg x < s.reg y) := (flagByte_lt _ _).symm
  have hnow (r : Reg) : (s.resultSource .subn x (·.reg y)).reg r = now r := by
    cases h : s.params.vfOrder <;> simp [reg_resultSource_subn, now, h, hflag]
  refine ⟨encodes_encode (.subn x y), fun h => ?_, fun hfault hlt => ?_⟩
  · have hnot : ¬ (s.params.subnUnderflow = .fault ∧ s.subnUnderflows x y = true) := by
      rw [subnUnderflows_iff, hnow, hnow]
      rintro ⟨hfault, hlt⟩
      rcases h with h | h
      · rw [h] at hfault; cases hfault
      · omega
    refine ⟨_, exec_subn_of_not hnot, cycleEnds_aluFlagged s .subn x _, fun r => ?_⟩
    rw [State.endCycle_reg]
    cases h : s.params.vfOrder with
    | sequential =>
      rw [reg_aluFlagged_of_sequential h rfl]
      simp [now, h, hflag, State.reg_setReg, alu_subn]
    | latched =>
      rw [reg_aluFlagged_of_latched h rfl]
      simp [now, h, hflag, alu_subn]
  · have hu : s.subnUnderflows x y = true := by rwa [subnUnderflows_iff, hnow, hnow]
    exact ⟨_, exec_subn_of_fault hfault hu, faultEntered_raise s _ _⟩

/-! ### Where the order cannot be seen (R165) -/

theorem State.setReg_comm (s : State) {x y : Reg} (h : x ≠ y) (a b : Byte) :
    (s.setReg x a).setReg y b = (s.setReg y b).setReg x a := by
  have hv : ((s.setReg x a).setReg y b).v = ((s.setReg y b).setReg x a).v := by
    apply State.v_ext
    intro r
    simp only [State.reg_setReg]
    by_cases hx : r = x
    · have hy : r ≠ y := hx ▸ h
      simp [hx, h]
    · simp [hx]
  exact congrArg (fun v => { s with v := v }) hv

/-- When the destination is not VF and the second operand does not see VF, a flagged operation is its latched
form in both orders. -/
theorem State.aluFlagged_eq_aluFlagLast (s : State) {op : AluOp} {x : Reg} {g : State → Byte} {f : Bool} (hx : x ≠ vf)
    (hg : ∀ b, g (s.setReg vf b) = g s) (hf : (s.alu op (s.reg x) (g s)).flag = some f) :
    s.aluFlagged op x g = s.aluFlagLast op x (g s) := by
  cases h : s.params.vfOrder with
  | latched => exact s.aluFlagged_latched op x g h
  | sequential =>
    have hflag : s.writeFlag (s.alu op (s.reg x) (g s)).flag = s.setReg vf (flagByte f) := by rw [hf]; rfl
    simp only [State.aluFlagged, State.resultSource, h, State.aluFlagLast, hflag]
    rw [hf, hg, State.reg_setReg_of_ne s _ hx]
    exact s.setReg_comm hx.symm _ _

/-- The same machine with another `VF_ORDER`. -/
def State.withOrder (s : State) (o : VfOrder) : State := { s with params := { s.params with vfOrder := o } }

theorem State.aluFlagLast_withOrder (s : State) (o : VfOrder) (op : AluOp) (x : Reg) (b : Byte) :
    (s.withOrder o).aluFlagLast op x b = (s.aluFlagLast op x b).withOrder o := by
  simp only [State.aluFlagLast]
  show (((s.setReg x (s.alu op (s.reg x) b).result).withOrder o).writeFlag (s.alu op (s.reg x) b).flag) = _
  cases (s.alu op (s.reg x) b).flag <;> rfl

theorem State.aluFlagged_withOrder (s : State) (o : VfOrder) {op : AluOp} {x : Reg} {g : State → Byte} {f : Bool}
    (hx : x ≠ vf) (hg : ∀ (t : State) b, g (t.setReg vf b) = g t) (hgo : g (s.withOrder o) = g s)
    (hf : (s.alu op (s.reg x) (g s)).flag = some f) :
    (s.withOrder o).aluFlagged op x g = (s.aluFlagged op x g).withOrder o := by
  rw [s.aluFlagged_eq_aluFlagLast hx (hg s) hf, ← State.aluFlagLast_withOrder, ← hgo]
  exact (s.withOrder o).aluFlagged_eq_aluFlagLast hx (hg _) (by rw [hgo]; exact hf)

theorem reg_setReg_vf {y : Reg} (hy : y ≠ vf) (t : State) (b : Byte) : (t.setReg vf b).reg y = t.reg y :=
  t.reg_setReg_of_ne b hy

theorem subnUnderflows_withOrder (s : State) (o : VfOrder) {x y : Reg} (hx : x ≠ vf) (hy : y ≠ vf) :
    (s.withOrder o).subnUnderflows x y = s.subnUnderflows x y := by
  have hsrc (t : State) (r : Reg) (hr : r ≠ vf) : (t.resultSource .subn x (·.reg y)).reg r = t.reg r := by
    rw [reg_resultSource_subn]
    cases t.params.vfOrder <;> simp [hr]
  rw [Bool.eq_iff_iff, subnUnderflows_iff, subnUnderflows_iff, hsrc _ _ hx, hsrc _ _ hy, hsrc _ _ hx, hsrc _ _ hy]
  rfl

/-- Settles O38: each of the four is its latched form, which does not look at the order; `Subn` also faults in both
orders or in neither. -/
theorem vfOrderMattersOnlyForRegisterF : Obligations.VfOrderMattersOnlyForRegisterF := by
  intro x y s o hx hy i hi
  show ∃ t, exec i s = .next t ∧ exec i (s.withOrder o) = .next (t.withOrder o)
  simp only [List.mem_cons, List.not_mem_nil, or_false] at hi
  rcases hi with rfl | rfl | rfl | rfl
  · refine ⟨_, exec_sub x y s, ?_⟩
    rw [exec_sub, s.aluFlagged_withOrder o hx (reg_setReg_vf hy) rfl rfl]
    rfl
  · by_cases h : s.params.subnUnderflow = .fault ∧ s.subnUnderflows x y = true
    · refine ⟨_, exec_subn_of_fault h.1 h.2, ?_⟩
      rw [exec_subn_of_fault (s := s.withOrder o) h.1 (by rw [subnUnderflows_withOrder s o hx hy, h.2])]
      rfl
    · refine ⟨_, exec_subn_of_not h, ?_⟩
      rw [exec_subn_of_not (s := s.withOrder o) (by rw [subnUnderflows_withOrder s o hx hy]; exact h),
        s.aluFlagged_withOrder o hx (reg_setReg_vf hy) rfl rfl]
      rfl
  · refine ⟨_, exec_shr x s, ?_⟩
    rw [exec_shr, s.aluFlagged_withOrder o hx (fun _ _ => rfl) rfl rfl]
    rfl
  · refine ⟨_, exec_shl x s, ?_⟩
    rw [exec_shl, s.aluFlagged_withOrder o hx (fun _ _ => rfl) rfl rfl]
    rfl

end Sys2Proof.Machine

/-! Index register and memory instructions (43_index_and_memory.md). -/

namespace Sys2Proof.Machine

theorem exec_loadIndex (a : Addr) (s : State) :
    exec (.loadIndex a) s = .next ({ s with i := addrWord a }.endCycle (s.pc + 2)) := rfl
theorem exec_addI (x : Reg) (s : State) :
    exec (.addI x) s = .next ({ s with i := s.i + byteWord (s.reg x) }.endCycle (s.pc + 2)) := rfl
theorem exec_loadSprite (x : Reg) (s : State) :
    exec (.loadSprite x) s = .next ({ s with i := glyphAddr (s.reg x) }.endCycle (s.pc + 2)) := rfl

theorem addrWord_toNat (a : Addr) : (addrWord a).toNat = a.toNat := by
  simp [addrWord]
  omega

theorem byteWord_toNat (b : Byte) : (byteWord b).toNat = b.toNat := by
  simp [byteWord]
  omega

theorem glyphAddr_toNat (b : Byte) : (glyphAddr b).toNat = b.toNat * 5 := by
  have hb := b.isLt
  rw [glyphAddr, BitVec.toNat_mul, byteWord_toNat]
  exact Nat.mod_eq_of_lt (by show b.toNat * 5 < 65536; omega)

/-- A cycle that writes I. -/
theorem cycleEnds_setIndex (s : State) (w nextPc : Word) :
    CycleEnds nextPc [.index] s ({ s with i := w }.endCycle nextPc) :=
  cycleEnds_endCycle nextPc (onlyChanges_setIndex s w) (by decide) (by decide)

/-- Settles O39: each is a write of I, whose value is read on numbers. -/
theorem indexInstructionsWriteIOnly : Obligations.IndexInstructionsWriteIOnly := by
  intro a x s
  refine ⟨encodes_encode (.loadIndex a), encodes_encode (.addI x), encodes_encode (.loadSprite x),
    ⟨_, exec_loadIndex a s, cycleEnds_setIndex s _ _, addrWord_toNat a⟩,
    ⟨_, exec_addI x s, cycleEnds_setIndex s _ _, ?_⟩,
    ⟨_, exec_loadSprite x s, cycleEnds_setIndex s _ _, glyphAddr_toNat _⟩⟩
  rw [State.endCycle_i, BitVec.toNat_add, byteWord_toNat]

/-! ### Stores at I -/

/-- The state after bytes are stored at I (R194). -/
def State.storedAtIndex (s : State) (bytes : List Byte) : State :=
  { s with mem := Memory.putAll s.mem s.i.toNat bytes }

theorem cycleEnds_storedAtIndex (s : State) (bytes : List Byte) (nextPc : Word) :
    CycleEnds nextPc [.memory] s ((s.storedAtIndex bytes).endCycle nextPc) :=
  cycleEnds_endCycle nextPc (onlyChanges_setMemory s _) (by decide) (by decide)

theorem State.storeAtIndex_of_fits {s : State} {bytes : List Byte} (hb : 0 < bytes.length)
    (h : s.i.toNat + bytes.length ≤ 4096) :
    s.storeAtIndex bytes = (s.storedAtIndex bytes).endCycle (s.pc + 2) := by
  rcases s.storeAtIndex_cases bytes hb with ⟨-, heq⟩ | ⟨hout, -⟩
  · exact heq
  · omega

theorem State.storeAtIndex_of_not_fits {s : State} {bytes : List Byte} (hb : 0 < bytes.length)
    (h : 4096 < s.i.toNat + bytes.length) : s.storeAtIndex bytes = s.raise .memoryOutOfBounds s.i := by
  rcases s.storeAtIndex_cases bytes hb with ⟨hin, -⟩ | ⟨-, heq⟩
  · omega
  · exact heq

theorem exec_loadBCD (x : Reg) (s : State) :
    exec (.loadBCD x) s = .next (s.storeAtIndex (bcdDigits (s.reg x))) := rfl
theorem exec_saveRegisters (x : Reg) (s : State) :
    exec (.saveRegisters x) s = .next (s.storeAtIndex (s.regsUpTo x)) := rfl

theorem bcdDigits_length (b : Byte) : (bcdDigits b).length = 3 := rfl

theorem exec_saveRegisters_of_fits {x : Reg} {s : State} (h : s.i.toNat + x.toNat ≤ 0xFFF) :
    exec (.saveRegisters x) s = .next ((s.storedAtIndex (s.regsUpTo x)).endCycle (s.pc + 2)) := by
  rw [exec_saveRegisters, State.storeAtIndex_of_fits] <;> rw [State.regsUpTo_length] <;> omega

/-- A read after a store at I: the stored byte inside, every other byte as before. -/
theorem read_storedAtIndex {s : State} (hm : Memory.wf s.mem) (bytes : List Byte) (c : Nat) :
    Memory.read (s.storedAtIndex bytes).mem c =
      if s.i.toNat ≤ c ∧ c < s.i.toNat + bytes.length then bytes.getD (c - s.i.toNat) 0x00#8
      else Memory.read s.mem c :=
  Memory.read_putAll hm.1 _ _ _

theorem read_storedRegisters {s : State} (hm : Memory.wf s.mem) {x r : Reg} (hr : r.toNat ≤ x.toNat) :
    Memory.read (s.storedAtIndex (s.regsUpTo x)).mem (s.i.toNat + r.toNat) = s.reg r := by
  rw [read_storedAtIndex hm, if_pos (by rw [State.regsUpTo_length]; omega), Nat.add_sub_cancel_left,
    State.regsUpTo_getD s x r hr]

/-- Settles O40: the three digits stand at the three places of the store, and past 0xFFF it faults. -/
theorem loadBcdStoresThreeDigitsAtI : Obligations.LoadBcdStoresThreeDigitsAtI := by
  intro x s
  have hlen := bcdDigits_length (s.reg x)
  refine ⟨encodes_encode (.loadBCD x), fun hm h => ?_, fun h => ?_⟩
  · have hrun : exec (.loadBCD x) s = .next ((s.storedAtIndex (bcdDigits (s.reg x))).endCycle (s.pc + 2)) := by
      rw [exec_loadBCD, State.storeAtIndex_of_fits] <;> rw [hlen] <;> omega
    have hb := (s.reg x).isLt
    refine ⟨_, hrun, cycleEnds_storedAtIndex s _ _, ?_, ?_, ?_, fun a ha => ?_⟩ <;>
      rw [State.endCycle_mem, read_storedAtIndex hm, hlen]
    · simp [bcdDigits]
    · simp [bcdDigits]
    · simp [bcdDigits]
    · rw [if_neg (by omega)]
  · refine ⟨_, ?_, faultEntered_raise s _ _⟩
    rw [exec_loadBCD, State.storeAtIndex_of_not_fits] <;> rw [hlen] <;> omega

/-- Settles O41, by whether the store fits. -/
theorem saveRegistersStoresV0ToVxAtI : Obligations.SaveRegistersStoresV0ToVxAtI := by
  intro x s
  refine ⟨encodes_encode (.saveRegisters x), fun hm h => ⟨_, exec_saveRegisters_of_fits h,
    cycleEnds_storedAtIndex s _ _, fun r hr => read_storedRegisters hm hr, fun a ha => ?_⟩, fun h => ?_⟩
  · rw [State.endCycle_mem, read_storedAtIndex hm, if_neg (by rw [State.regsUpTo_length]; omega)]
  · refine ⟨_, ?_, faultEntered_raise s _ _⟩
    rw [exec_saveRegisters, State.storeAtIndex_of_not_fits] <;> rw [State.regsUpTo_length] <;> omega

/-! ### Loads from I -/

/-- The bytes at I that `LoadRegisters{x}` reads (R195). -/
def State.bytesAtIndex (s : State) (x : Reg) : List Byte :=
  (List.range (x.toNat + 1)).map fun k => Memory.read s.mem (s.i.toNat + k)

theorem exec_loadRegisters_of_fits {x : Reg} {s : State} (h : s.i.toNat + x.toNat ≤ 0xFFF) :
    exec (.loadRegisters x) s = .next ((s.setRegsFrom 0 (s.bytesAtIndex x)).endCycle (s.pc + 2)) := by
  rw [← State.setRegsFrom_pc s 0 (s.bytesAtIndex x)]
  simp only [exec, execLoadRegisters, State.indexAddr,
    Memory.readBytes_some (m := s.mem) (a := s.i.toNat) (n := x.toNat + 1) (by omega)]
  rfl

theorem exec_loadRegisters_of_not_fits {x : Reg} {s : State} (h : 0xFFF < s.i.toNat + x.toNat) :
    exec (.loadRegisters x) s = .next (s.raise .memoryOutOfBounds s.i) := by
  simp only [exec, execLoadRegisters, State.indexAddr,
    Memory.readBytes_none (m := s.mem) (a := s.i.toNat) (n := x.toNat + 1) (by omega) (by omega)]

theorem reg_loadedFromIndex (s : State) (x r : Reg) :
    (s.setRegsFrom 0 (s.bytesAtIndex x)).reg r =
      if r.toNat ≤ x.toNat then Memory.read s.mem (s.i.toNat + r.toNat) else s.reg r := by
  have hx := x.isLt
  have hlen : (s.bytesAtIndex x).length = x.toNat + 1 := by simp [State.bytesAtIndex]
  rw [State.reg_setRegsFrom _ _ _ (by omega), hlen]
  by_cases hr : r.toNat ≤ x.toNat
  · have hr' : r.toNat < x.toNat + 1 := by omega
    simp [hr, hr', State.bytesAtIndex, List.getD_eq_getElem?_getD]
  · have hr' : ¬ r.toNat < x.toNat + 1 := by omega
    simp [hr, hr']

/-- Settles O42, by whether the load fits. -/
theorem loadRegistersLoadsV0ToVxFromI : Obligations.LoadRegistersLoadsV0ToVxFromI := by
  intro x s
  refine ⟨encodes_encode (.loadRegisters x), fun h => ⟨_, exec_loadRegisters_of_fits h, ?_,
    reg_loadedFromIndex s x⟩, fun h => ⟨_, exec_loadRegisters_of_not_fits h, faultEntered_raise s _ _⟩⟩
  exact cycleEnds_endCycle _ (onlyChanges_setRegsFrom s 0 _) (by decide) (by decide)

/-! ### A store seen by a later read -/

/-- Settles O43: the load reads what the store left there. -/
theorem savedRegistersLoadBack : Obligations.SavedRegistersLoadBack := by
  intro x s v hm h
  refine ⟨_, _, exec_saveRegisters_of_fits h, exec_loadRegisters_of_fits (by exact h), fun r => ?_⟩
  rw [State.endCycle_reg, reg_loadedFromIndex]
  split
  case isTrue hr => exact read_storedRegisters hm hr
  case isFalse => rfl

/-- Settles O44: the fetch reads the two stored bytes. -/
theorem storeIsSeenByTheNextFetch : Obligations.StoreIsSeenByTheNextFetch := by
  intro x r s hm h hr
  refine ⟨_, exec_saveRegisters_of_fits h, ?_⟩
  have hpc : (s.i + r.zeroExtend 16).toNat = s.i.toNat + r.toNat := by
    have hrlt := r.isLt
    simp
    omega
  have hsucc : (r + 1).toNat = r.toNat + 1 := by
    have hx := x.isLt
    simp
    omega
  rw [State.fetchWord_some (by show (s.i + r.zeroExtend 16).toNat ≤ 0xFFE; omega)]
  show some (Memory.read (s.storedAtIndex (s.regsUpTo x)).mem (s.i + r.zeroExtend 16).toNat ++
    Memory.read (s.storedAtIndex (s.regsUpTo x)).mem ((s.i + r.zeroExtend 16).toNat + 1)) = _
  rw [hpc, read_storedRegisters hm (by omega), Nat.add_assoc, ← hsucc, read_storedRegisters hm (by omega)]

end Sys2Proof.Machine

/-! Timer and key instructions (44_timers_and_keys.md). -/

namespace Sys2Proof.Machine

open Sys2Proof.Config

theorem exec_getDelay (x : Reg) (s : State) :
    exec (.getDelay x) s = .next ((s.setReg x s.dt).endCycle (s.pc + 2)) := rfl
theorem exec_setDelay (x : Reg) (s : State) :
    exec (.setDelay x) s = .next ({ s with dt := s.reg x }.endCycle (s.pc + 2)) := rfl
theorem exec_setSound (x : Reg) (s : State) :
    exec (.setSound x) s = .next ({ s with st := s.reg x }.endCycle (s.pc + 2)) := rfl

/-- Settles O45: for the two writes, the cycle is one that had the register's value in the timer. -/
theorem timerInstructionsReadAndWriteTheTimers : Obligations.TimerInstructionsReadAndWriteTheTimers := by
  intro x s
  exact ⟨encodes_encode (.getDelay x), encodes_encode (.setDelay x), encodes_encode (.setSound x),
    ⟨_, exec_getDelay x s, cycleEnds_setReg s x _ _, fun r => s.reg_setReg x r _⟩,
    ⟨_, exec_setDelay x s, cycleEnds_of_nothing { s with dt := s.reg x } _⟩,
    ⟨_, exec_setSound x s, cycleEnds_of_nothing { s with st := s.reg x } _⟩⟩

/-! ### The key skips -/

/-- The level at the next poll of the key that a byte names. -/
def State.keyLevel (s : State) (b : Byte) : Bool := (s.keyPoll.peek keyLevels).getLsbD b.toNat

theorem State.keyDown_eq_keyLevel (s : State) {k : Key} {b : Byte} (h : k.toNat = b.toNat) :
    s.keyDown k = s.keyLevel b := by
  rw [State.keyDown, h, State.keyLevel]

theorem exec_skipKeyPressed_of_le {x : Reg} {s : State} (h : (s.reg x).toNat ≤ 0x0F) :
    exec (.skipKeyPressed x) s =
      .next (s.drawKeyPoll.endCycle (if s.keyLevel (s.reg x) then s.pc + 4 else s.pc + 2)) := by
  obtain ⟨k, hk, hkn⟩ := keyOfByte_some h
  simp only [exec, execSkipKeyPressed, hk, s.keyDown_eq_keyLevel hkn]
  rfl

theorem exec_skipKeyNotPressed_of_le {x : Reg} {s : State} (h : (s.reg x).toNat ≤ 0x0F) :
    exec (.skipKeyNotPressed x) s =
      .next (s.drawKeyPoll.endCycle (if s.keyLevel (s.reg x) then s.pc + 2 else s.pc + 4)) := by
  obtain ⟨k, hk, hkn⟩ := keyOfByte_some h
  simp only [exec, execSkipKeyNotPressed, hk, s.keyDown_eq_keyLevel hkn]
  cases s.keyLevel (s.reg x) <;> rfl

theorem exec_skipKeyPressed_of_gt {x : Reg} {s : State} (h : 0x0F < (s.reg x).toNat) :
    exec (.skipKeyPressed x) s = .next (s.raise .unknownKey (byteWord (s.reg x))) := by
  simp only [exec, execSkipKeyPressed, keyOfByte_none h]

theorem exec_skipKeyNotPressed_of_gt {x : Reg} {s : State} (h : 0x0F < (s.reg x).toNat) :
    exec (.skipKeyNotPressed x) s = .next (s.raise .unknownKey (byteWord (s.reg x))) := by
  simp only [exec, execSkipKeyNotPressed, keyOfByte_none h]

/-- A cycle that polls a key. -/
theorem cycleEnds_drawKeyPoll (s : State) (nextPc : Word) :
    CycleEnds nextPc [.keyPolls] s (s.drawKeyPoll.endCycle nextPc) :=
  cycleEnds_endCycle nextPc (onlyChanges_drawKeyPoll s) (by decide) (by decide)

/-- Settles O46, by whether V[x] names a key. -/
theorem keySkipsPollTheKeyNumberedVx : Obligations.KeySkipsPollTheKeyNumberedVx := by
  intro x s down
  exact ⟨encodes_encode (.skipKeyPressed x), encodes_encode (.skipKeyNotPressed x),
    fun h => ⟨⟨_, exec_skipKeyPressed_of_le h, cycleEnds_drawKeyPoll s _, rfl⟩,
      ⟨_, exec_skipKeyNotPressed_of_le h, cycleEnds_drawKeyPoll s _, rfl⟩⟩,
    fun h => ⟨⟨_, exec_skipKeyPressed_of_gt h, faultEntered_raise s _ _⟩,
      ⟨_, exec_skipKeyNotPressed_of_gt h, faultEntered_raise s _ _⟩⟩⟩

/-! ### The key wait (R117, R225, R226) -/

/-- The state that holds inside the cycle of the waiting word `w`, after a look that showed no key. -/
def State.holding (s : State) (w : KeyWait) : State :=
  { s.drawKeyEvent with hold := some w, resp := none, loadOpen := false }

/-- The state in which the key is stored and the wait is over, before the cycle ends. -/
def State.gotKey (s : State) (x : Reg) (k : Key) : State :=
  { s.drawKeyEvent with hold := none }.setReg x (k.zeroExtend 8)

theorem onlyChanges_holding (s : State) (w : KeyWait) :
    OnlyChanges [.hold, .resp, .loadPort, .keyWaits] s (s.holding w) := by
  intro p hp
  cases p <;> simp_all [Unchanged, State.holding, State.reg]

theorem onlyChanges_gotKey (s : State) (x : Reg) (k : Key) :
    OnlyChanges [.regs, .hold, .keyWaits] s (s.gotKey x k) := by
  intro p hp
  cases p <;> simp_all [Unchanged, State.gotKey]

theorem State.awaitKey_of_none {s : State} (h : s.keyEvent = none) (w : KeyWait) : s.awaitKey w = s.holding w := by
  rcases s.awaitKey_cases w with ⟨-, heq⟩ | ⟨k, hk, -⟩
  · exact heq
  · rw [h] at hk; cases hk

theorem State.awaitKey_of_some {s : State} {k : Key} (h : s.keyEvent = some k) (w : KeyWait) :
    s.awaitKey w = (s.gotKey w.x k).endCycle (keyWaitNextPc s.params.fx0aPc w.pc) := by
  rcases s.awaitKey_cases w with ⟨hk, -⟩ | ⟨k', hk, heq⟩
  · rw [h] at hk; cases hk
  · rw [h] at hk; cases hk; exact heq

/-- Whatever a look at the key source shows. -/
theorem onlyChanges_awaitKey (s : State) (w : KeyWait) :
    OnlyChanges (doneParts ++ [.regs, .hold, .keyWaits]) s (s.awaitKey w) := by
  cases h : s.keyEvent with
  | none =>
    rw [State.awaitKey_of_none h]
    exact (onlyChanges_holding s w).mono (by simp [doneParts])
  | some k =>
    rw [State.awaitKey_of_some h]
    exact (onlyChanges_gotKey s w.x k).trans (onlyChanges_endCycle _ _)

theorem State.awaitKey_loadOpen (s : State) (w : KeyWait) : (s.awaitKey w).loadOpen = false := by
  cases h : s.keyEvent with
  | none => rw [State.awaitKey_of_none h]; rfl
  | some k => rw [State.awaitKey_of_some h]; rfl

theorem exec_waitKeyPressed (x : Reg) (s : State) :
    exec (.waitKeyPressed x) s = .next (s.awaitKey ⟨x, s.pc⟩) := rfl

/-- Settles O47: the look shows the key, so the wait completes as `State.awaitKey_of_some` says. -/
theorem keyWaitStoresTheKeyAndCompletes : Obligations.KeyWaitStoresTheKeyAndCompletes := by
  intro x s k hk
  have hends : CycleEnds (keyWaitNextPc s.params.fx0aPc s.pc) [.regs, .hold, .keyWaits] s
      ((s.gotKey x k).endCycle (keyWaitNextPc s.params.fx0aPc s.pc)) :=
    cycleEnds_endCycle _ (onlyChanges_gotKey s x k) (by decide) (by decide)
  refine ⟨encodes_encode (.waitKeyPressed x), (s.gotKey x k).endCycle (keyWaitNextPc s.params.fx0aPc s.pc), ?_, ?_,
    fun r => State.reg_setReg _ x r _, rfl⟩
  · rw [exec_waitKeyPressed, State.awaitKey_of_some hk]
  · cases h : s.params.fx0aPc <;> rw [h] at hends <;> exact hends

/-- A look of a held engine. -/
theorem step_of_hold {s : State} {w : KeyWait} (hrun : s.status = .run) (hhold : s.hold = some w) :
    step s = .next (s.awaitKey w) := by
  simp only [step, cycle, hrun, hhold]

/-- Any number of looks that show no key leave the hold as it is. -/
theorem run_of_silent_looks (w : KeyWait) (n : Nat) (s : State) (hrun : s.status = .run) (hhold : s.hold = some w)
    (hscript : s.keyWait.script = List.replicate n none) :
    ∃ t, Host.Core.run Sys2Proof.core n s = .next t ∧ t.hold = some w ∧
      OnlyChanges [.resp, .loadPort, .keyWaits] s t := by
  induction n generalizing s with
  | zero => exact ⟨s, rfl, hhold, (OnlyChanges.refl s).mono nofun⟩
  | succ n ih =>
    have hnone : s.keyEvent = none := by rw [State.keyEvent, Input.peek, hscript]; rfl
    have hstep : step s = .next (s.holding w) := by rw [step_of_hold hrun hhold, State.awaitKey_of_none hnone]
    have hlook : OnlyChanges [.resp, .loadPort, .keyWaits] s (s.holding w) := by
      intro p hp
      by_cases hph : p = .hold
      · subst hph; exact hhold.symm
      · exact onlyChanges_holding s w p (by simp_all)
    obtain ⟨t, ht, hthold, hframe⟩ := ih (s.holding w) hrun rfl (by
      show s.keyWait.script.tail = _
      rw [hscript]; rfl)
    refine ⟨t, (run_succ_of_next Sys2Proof.core hstep n).trans ht, hthold, (hlook.trans hframe).mono (by simp)⟩

/-- Settles O48: the first look, the silent looks by induction, and the look of a held engine. -/
theorem keyWaitHoldsUntilTheKeySourceAnswers : Obligations.KeyWaitHoldsUntilTheKeySourceAnswers := by
  refine ⟨fun x s hnone => ?_, fun s w n hrun hhold hscript => run_of_silent_looks w n s hrun hhold hscript,
    fun s w hrun hhold hpc => ?_⟩
  · refine ⟨s.holding ⟨x, s.pc⟩, ?_, rfl, rfl, onlyChanges_holding s _⟩
    rw [exec_waitKeyPressed, State.awaitKey_of_none hnone]
  · rw [step_of_hold hrun hhold, exec_waitKeyPressed, ← hpc]

end Sys2Proof.Machine

/-! The cycle (40_execution_engine.md R101) and the sticky fault (60_exceptions.md R288). -/

namespace Sys2Proof.Machine

/-- Settles O10, by `step_of_decoded`. -/
theorem stepRunsTheDecodedInstruction : Obligations.StepRunsTheDecodedInstruction := by
  intro s i hready hpc hdecode
  exact ⟨step_of_decoded hready (State.fetchWord_some hpc) hdecode, onlyChanges_drawRunning s⟩

/-- A ready engine goes on to fetch. -/
theorem step_of_ready {s : State} (h : Ready s) : step s = s.drawRunning.runCycle := by
  obtain ⟨hrun, hhold, hrunning⟩ := h
  simp only [step, cycle, hrun, hhold, hrunning, if_true]

theorem step_of_unknownOpcode {s : State} {w e : Word} (hready : Ready s) (hf : s.fetchWord = some w)
    (hd : decodeWord s.params.strict59 w = .unknownOpcode e) :
    step s = .next (s.drawRunning.raise .decodeError e) := by
  rw [step_of_ready hready]
  simp only [State.runCycle, State.drawRunning_fetchWord, State.drawRunning_params, hf, hd]

theorem step_of_no_fetch {s : State} (hready : Ready s) (hf : s.fetchWord = none) :
    step s = .next (s.drawRunning.raise .memoryOutOfBounds s.pc) := by
  rw [step_of_ready hready]
  simp only [State.runCycle, State.drawRunning_fetchWord, hf, State.drawRunning_pc]

/-- Settles O12: a decode error carries the word. -/
theorem undecodableWordRaisesDecodeError : Obligations.UndecodableWordRaisesDecodeError := by
  intro s w e hready hpc hw hd
  obtain ⟨rfl, -⟩ := (decodeFailsExactlyOnTheListedWords _ _ _).1 hd
  exact ⟨_, step_of_unknownOpcode hready (hw ▸ State.fetchWord_some hpc) hd, faultEntered_raise _ _ _⟩

/-- Settles O13: the fetch gives nothing. -/
theorem fetchOutsideMemoryFaults : Obligations.FetchOutsideMemoryFaults := by
  intro s hready hpc
  exact ⟨_, step_of_no_fetch hready (State.fetchWord_none hpc), faultEntered_raise _ _ _⟩

theorem step_of_not_running {s : State} (hrun : s.status = .run) (hhold : s.hold = none)
    (hno : s.runningNow = false) : step s = .next s.drawRunning.halt := by
  simp only [step, cycle, hrun, hhold, hno]
  rfl

/-- Settles O14: the step is the query and the `Halted` answer, each with its frame. -/
theorem haltedCycleChangesNothing : Obligations.HaltedCycleChangesNothing := by
  intro s hrun hhold hno
  exact ⟨_, step_of_not_running hrun hhold hno, rfl, rfl,
    (onlyChanges_drawRunning s).trans (onlyChanges_halt s.drawRunning)⟩

theorem step_of_fault {s : State} (h : s.status = .fault) : step s = .next s.repeatFault := by
  simp only [step, cycle, h]

/-- Repeating a fault is idempotent, so every further request gives the same state. -/
theorem run_of_fault (n : Nat) (s : State) (h : s.status = .fault) :
    Host.Core.run Sys2Proof.core (n + 1) s = .next s.repeatFault := by
  induction n generalizing s with
  | zero => exact run_succ_of_next Sys2Proof.core (step_of_fault h) 0
  | succ n ih => exact (run_succ_of_next Sys2Proof.core (step_of_fault h) (n + 1)).trans (ih s.repeatFault h)

/-- Settles O15, by `run_of_fault`. -/
theorem faultRepeatsForever : Obligations.FaultRepeatsForever := by
  intro s n h
  exact ⟨s.repeatFault, run_of_fault n s h, rfl, onlyChanges_repeatFault s⟩

end Sys2Proof.Machine

/-! Reset and the ROM load (70_reset_and_hazards.md section 1). -/

namespace Sys2Proof.Machine

theorem State.resetPort_inv (s : State) : s.resetPort.Inv where
  memory := State.resetWith_memory_wf s.params
  pcRange := by show (0x0200#16).toNat ≤ 0x10FE; decide
  stackRange k h := by simp [State.resetPort, State.resetWith, State.reset]
  runRecord _ := ⟨rfl, rfl, rfl⟩
  faultRecord := nofun
  holdOpen := nofun
  subnRecord := nofun
  boot _ := rfl

/-- The default font is what memory reads as where nothing is listed, so its copy lists nothing. -/
theorem State.reset_resetPort : State.reset.resetPort = State.reset := by
  have hfont : Memory.putAll [] 0 standardFont.toList = [] := by decide
  exact congrArg (fun m => { State.reset with mem := m }) hfont

/-- Settles O19: the reset state is what the reset port makes of it. -/
theorem resetMeetsTheInvariant : Obligations.ResetMeetsTheInvariant := by
  have h := State.reset.resetPort_inv
  rwa [State.reset_resetPort] at h

theorem State.loadRom_of_fits {s : State} {rom : List Byte} (hopen : s.loadOpen = true) (hlen : rom.length ≤ 3584) :
    s.loadRom rom = .ok { s with mem := Memory.putAll s.mem 0x200 rom, loadOpen := false } := by
  simp [State.loadRom, hopen, romFits, progMax, hlen, progBase]

theorem State.loadRom_of_too_large {s : State} {rom : List Byte} (hopen : s.loadOpen = true)
    (hlen : 3584 < rom.length) : s.loadRom rom = .tooLarge s := by
  simp [State.loadRom, hopen, romFits, progMax, Nat.not_le.2 hlen]

theorem State.loadRom_of_closed {s : State} (hclosed : s.loadOpen = false) (rom : List Byte) :
    s.loadRom rom = .noMeaning := by
  simp [State.loadRom, hclosed]

/-- A load that succeeds had an open port and an image that fits. -/
theorem State.loadRom_eq_ok {s t : State} {rom : List Byte} (h : s.loadRom rom = .ok t) :
    rom.length ≤ 3584 ∧ t = { s with mem := Memory.putAll s.mem 0x200 rom, loadOpen := false } := by
  cases hopen : s.loadOpen with
  | false => rw [State.loadRom_of_closed hopen] at h; cases h
  | true =>
    by_cases hlen : rom.length ≤ 3584
    · rw [State.loadRom_of_fits hopen hlen] at h
      cases h
      exact ⟨hlen, rfl⟩
    · rw [State.loadRom_of_too_large hopen (by omega)] at h
      cases h

/-- Settles O21: a load writes memory inside its bounds and closes the port; every other clause is about parts it
leaves alone. -/
theorem resetAndLoadKeepTheInvariant : Obligations.ResetAndLoadKeepTheInvariant := by
  refine ⟨State.resetPort_inv, fun s t rom hinv h => ?_⟩
  obtain ⟨hlen, rfl⟩ := State.loadRom_eq_ok h
  exact { hinv with
    memory := Memory.putAll_wf hinv.memory (by simp only [memSize]; omega)
    boot := nofun }

theorem Memory.read_font (p : Config.Params) (a : Nat) :
    Memory.read (Memory.putAll [] 0 p.font.toList) a =
      if a < 80 then p.font.toList.getD a 0x00#8 else Memory.background a := by
  rw [Memory.read_putAll .nil]
  simp [Memory.read]

/-- Settles O22: memory by a read after the copy of `FONT`, every other part as written in `State.reset`. -/
theorem resetPutsEveryPartIntoItsResetValue : Obligations.ResetPutsEveryPartIntoItsResetValue := by
  refine ⟨fun s => ⟨fun r => ?_, rfl, rfl, rfl, fun k h => ?_, rfl, rfl, fun a h => ?_, fun a h => ?_,
    Screen.cell_blank, rfl, rfl, rfl, rfl, rfl, rfl, rfl⟩, State.reset_resetPort, rfl⟩
  · simp [State.resetPort, State.resetWith, State.reset, State.reg]
  · simp [State.resetPort, State.resetWith, State.reset]
  · refine (Memory.read_font s.params a).trans ?_
    simp [h, List.getD_eq_getElem?_getD]
  · refine (Memory.read_font s.params a).trans ?_
    rw [if_neg (by omega), Memory.background, dif_neg (by omega)]

end Sys2Proof.Machine

/-! Everything running an instruction can do, said once for all 34: it faults for a cause, it holds for a key, or it
completes (40_execution_engine.md R101 steps 5 to 8). The rules over all instructions follow from it. -/

namespace Sys2Proof

open Sys2Proof.Machine

/-- The parts that an instruction writes in a cycle that completes, besides those of every such cycle. -/
def Instr.writes : Instr → List Part
  | .clearScreen => [.screen, .dirty]
  | .ret | .call _ => [.stack]
  | .jump _ | .jumpV0 _ | .skipEqualByte _ _ | .skipNotEqualByte _ _ | .skipEqualReg _ _ | .skipNotEqualReg _ _ => []
  | .loadByte _ _ | .addByte _ _ | .move _ _ | .or _ _ | .and _ _ | .xor _ _ | .add _ _ | .sub _ _ | .shr _
  | .subn _ _ | .shl _ | .getDelay _ | .loadRegisters _ => [.regs]
  | .random _ _ => [.regs, .random]
  | .draw _ _ _ => [.regs, .screen, .collision]
  | .skipKeyPressed _ | .skipKeyNotPressed _ => [.keyPolls]
  | .waitKeyPressed _ => [.regs, .hold, .keyWaits]
  | .setDelay _ => [.delay]
  | .setSound _ => [.sound]
  | .loadIndex _ | .addI _ | .loadSprite _ => [.index]
  | .loadBCD _ | .saveRegisters _ => [.memory]

/-- The registers that an instruction may write: its destinations, and VF where it writes a flag (10_state.md R21). -/
def Instr.targets : Instr → Reg → Prop
  | .loadByte x _, r | .addByte x _, r | .move x _, r | .or x _, r | .and x _, r | .xor x _, r | .random x _, r
  | .getDelay x, r | .waitKeyPressed x, r => r = x
  | .add x _, r | .sub x _, r | .shr x, r | .subn x _, r | .shl x, r => r = x ∨ r = vf
  | .draw _ _ _, r => r = vf
  | .loadRegisters x, r => r.toNat ≤ x.toNat
  | _, _ => False

end Sys2Proof

namespace Sys2Proof.Machine

open Sys2Proof.Config

/-- What the fault of a decoded instruction says about the state that raised it (60_exceptions.md R282 to R285,
R298). -/
def FaultCause (s : State) (info : Word) : FaultCode → Prop
  | .none | .decodeError => False
  | .unknownKey => 0x0F < info.toNat ∧ info.toNat ≤ 0xFF
  | .stackOverflow => s.sp = 16 ∧ info.toNat ≤ 0xFFF
  | .stackUnderflow => s.sp = 0 ∧ info = 0x0000#16
  | .memoryOutOfBounds => info = s.i ∧ 0xFF0 < s.i.toNat
  | .subnUnderflow => s.params.subnUnderflow = .fault

/-- Where pc may go at the end of a completed cycle (R102). -/
def NextPc (s : State) (p : Word) : Prop :=
  p = s.pc ∨ p = s.pc + 2 ∨ p = s.pc + 4 ∨ (∃ a : Addr, p = a.zeroExtend 16) ∨ (∃ a, p = s.jumpV0Target a) ∨
    ∃ k, ∃ h : k < 16, p = s.stack[k]

/-- Memory after an instruction: as before, or with the bytes of one of the two stores. -/
def MemoryAfter (i : Instr) (s : State) (m : Memory) : Prop :=
  m = s.mem ∨ (∃ x, i = .loadBCD x ∨ i = .saveRegisters x) ∧ ∃ bytes : List Byte, bytes.length ≤ 16 ∧
    s.i.toNat + bytes.length ≤ 4096 ∧ m = Memory.putAll s.mem s.i.toNat bytes

/-- `u` is what the instruction makes of `s` before its cycle ends at `p`. -/
structure Completes (i : Instr) (s u : State) (p : Word) : Prop where
  frame : OnlyChanges i.writes s u
  nextPc : NextPc s p
  regs : ∀ r, u.reg r = s.reg r ∨ i.targets r
  memory : MemoryAfter i s u.mem
  stack : ∀ k (h : k < 16), u.stack[k] = s.stack[k] ∨ u.stack[k] = s.pc + 2
  hold : s.hold = none → u.hold = none

/-- What running `i` from `s` can lead to. -/
inductive Outcomes (i : Instr) (s : State) : State → Prop where
  | fault {code : FaultCode} {info : Word} (cause : FaultCause s info code) : Outcomes i s (s.raise code info)
  | hold {x : Reg} (wait : i = .waitKeyPressed x) (silent : s.keyEvent = none) : Outcomes i s (s.holding ⟨x, s.pc⟩)
  | done {u : State} {p : Word} (h : Completes i s u p) : Outcomes i s (u.endCycle p)

/-- Running `i` from `s` answers a next state, and one of `Outcomes`. -/
def Runs (i : Instr) (s : State) : Prop := ∃ t, exec i s = .next t ∧ Outcomes i s t

section Runs
variable {i : Instr} {s u : State} {p : Word}

theorem Runs.fault {code : FaultCode} {info : Word} (h : exec i s = .next (s.raise code info))
    (cause : FaultCause s info code) : Runs i s :=
  ⟨_, h, .fault cause⟩

theorem Runs.done (h : exec i s = .next (u.endCycle p)) (hc : Completes i s u p) : Runs i s := ⟨_, h, .done hc⟩

theorem NextPc.two : NextPc s (s.pc + 2) := .inr (.inl rfl)

theorem NextPc.skip {c : Prop} [Decidable c] : NextPc s (if c then s.pc + 4 else s.pc + 2) := by
  split
  · exact .inr (.inr (.inl rfl))
  · exact .two

theorem NextPc.skip_not {c : Prop} [Decidable c] : NextPc s (if c then s.pc + 2 else s.pc + 4) := by
  split
  · exact .two
  · exact .inr (.inr (.inl rfl))

/-- An instruction that writes neither memory, the stack nor the hold. -/
theorem Completes.of_regs {ps : List Part} (frame : OnlyChanges ps s u) (hw : i.writes = ps) (nextPc : NextPc s p)
    (hmem : u.mem = s.mem) (regs : ∀ r, u.reg r = s.reg r ∨ i.targets r) (hstack : .stack ∉ ps := by decide)
    (hhold : .hold ∉ ps := by decide) : Completes i s u p where
  frame := hw ▸ frame
  nextPc := nextPc
  regs := regs
  memory := .inl hmem
  stack k h := by
    obtain ⟨-, heq⟩ := frame .stack hstack
    rw [heq]
    exact .inl rfl
  hold h := Eq.trans (frame .hold hhold) h

/-- An instruction that writes no register either. -/
theorem Completes.of_frame {ps : List Part} (frame : OnlyChanges ps s u) (hw : i.writes = ps) (nextPc : NextPc s p)
    (hmem : u.mem = s.mem) (hregs : .regs ∉ ps := by decide) (hstack : .stack ∉ ps := by decide)
    (hhold : .hold ∉ ps := by decide) : Completes i s u p :=
  .of_regs frame hw nextPc hmem (fun r => .inl (frame .regs hregs r)) hstack hhold

theorem reg_setReg_eq_or (s : State) (x : Reg) (b : Byte) (r : Reg) : (s.setReg x b).reg r = s.reg r ∨ r = x := by
  by_cases h : r = x
  · exact .inr h
  · exact .inl (s.reg_setReg_of_ne b h)

theorem reg_writeFlag_eq_or (s : State) (o : Option Bool) (r : Reg) : (s.writeFlag o).reg r = s.reg r ∨ r = vf := by
  cases o with
  | none => exact .inl rfl
  | some f => exact reg_setReg_eq_or s vf _ r

theorem reg_aluFlagLast_eq_or (s : State) (op : AluOp) (x : Reg) (b : Byte) (r : Reg) :
    (s.aluFlagLast op x b).reg r = s.reg r ∨ r = x ∨ r = vf := by
  rcases reg_writeFlag_eq_or (s.setReg x (s.alu op (s.reg x) b).result) (s.alu op (s.reg x) b).flag r with h | h
  · rcases reg_setReg_eq_or s x (s.alu op (s.reg x) b).result r with h' | h'
    · exact .inl (h.trans h')
    · exact .inr (.inl h')
  · exact .inr (.inr h)

theorem reg_aluFlagged_eq_or (s : State) (op : AluOp) (x : Reg) (g : State → Byte) (r : Reg) :
    (s.aluFlagged op x g).reg r = s.reg r ∨ r = x ∨ r = vf := by
  cases h : s.params.vfOrder with
  | latched => rw [s.aluFlagged_latched op x g h]; exact reg_aluFlagLast_eq_or s op x (g s) r
  | sequential =>
    by_cases hx : r = x
    · exact .inr (.inl hx)
    · rw [s.reg_aluFlagged_sequential op x g r h, if_neg hx]
      rcases reg_writeFlag_eq_or s (s.alu op (s.reg x) (g s)).flag r with h' | h'
      · exact .inl h'
      · exact .inr (.inr h')

/-- An instruction that writes one register. -/
theorem Runs.of_setReg {x : Reg} {b : Byte} (h : exec i s = .next ((s.setReg x b).endCycle (s.pc + 2)))
    (hw : i.writes = [.regs]) (ht : i.targets = fun r => r = x) : Runs i s := by
  refine .done h (.of_regs (onlyChanges_setReg s x b) hw .two rfl fun r => ?_)
  rw [ht]
  exact reg_setReg_eq_or s x b r

/-- One of Sub, Shr, Subn and Shl. -/
theorem Runs.of_aluFlagged {op : AluOp} {x : Reg} {g : State → Byte}
    (h : exec i s = .next ((s.aluFlagged op x g).endCycle (s.pc + 2)))
    (hw : i.writes = [.regs]) (ht : i.targets = fun r => r = x ∨ r = vf) : Runs i s := by
  refine .done h (.of_regs (onlyChanges_aluFlagged s op x g) hw .two (State.aluFlagged_mem s op x g) fun r => ?_)
  rw [ht]
  exact reg_aluFlagged_eq_or s op x g r

/-- One of the two stores. -/
theorem Runs.of_store {bytes : List Byte} (h : exec i s = .next (s.storeAtIndex bytes)) (hw : i.writes = [.memory])
    (hi : ∃ x, i = .loadBCD x ∨ i = .saveRegisters x) (hpos : 0 < bytes.length) (hlen : bytes.length ≤ 16) :
    Runs i s := by
  by_cases hfit : s.i.toNat + bytes.length ≤ 4096
  · rw [State.storeAtIndex_of_fits hpos hfit] at h
    exact .done h
      { frame := by rw [hw]; exact onlyChanges_setMemory s _
        nextPc := .two
        regs := fun r => .inl rfl
        memory := .inr ⟨hi, bytes, hlen, hfit, rfl⟩
        stack := fun k hk => .inl rfl
        hold := id }
  · rw [State.storeAtIndex_of_not_fits hpos (by omega)] at h
    exact .fault h ⟨rfl, by omega⟩

end Runs

theorem runs_call (a : Addr) (s : State) : Runs (.call a) s := by
  by_cases h : s.sp.val < 16
  · refine .done (exec_call_of_lt a h)
      { frame := onlyChanges_pushReturn s h
        nextPc := .inr (.inr (.inr (.inl ⟨a, rfl⟩)))
        regs := fun r => .inl rfl
        memory := .inl rfl
        stack := fun k hk => ?_
        hold := id }
    by_cases hks : k = s.sp.val
    · subst hks; exact .inr (s.pushReturn_top h)
    · exact .inl (s.pushReturn_other h hk hks)
  · have hfull : s.sp.val = 16 := by omega
    exact .fault (exec_call_of_full a hfull) ⟨Fin.ext hfull, by rw [← addrWord, addrWord_toNat]; omega⟩

theorem runs_ret (s : State) : Runs .ret s := by
  by_cases h : s.sp.val = 0
  · exact .fault (exec_ret_of_empty h) ⟨Fin.ext h, rfl⟩
  · obtain ⟨k, hk⟩ : ∃ k, s.sp.val = k + 1 := ⟨s.sp.val - 1, by omega⟩
    have hk16 : k < 16 := by omega
    exact .done (exec_ret_of_pos hk16 hk)
      { frame := onlyChanges_setStack s _ s.stack
        nextPc := .inr (.inr (.inr (.inr (.inr ⟨k, hk16, rfl⟩))))
        regs := fun r => .inl rfl
        memory := .inl rfl
        stack := fun k hk => .inl rfl
        hold := id }

theorem runs_subn (x y : Reg) (s : State) : Runs (.subn x y) s := by
  by_cases h : s.params.subnUnderflow = .fault ∧ s.subnUnderflows x y = true
  · exact .fault (exec_subn_of_fault h.1 h.2) h.1
  · exact .of_aluFlagged (exec_subn_of_not h) rfl rfl

theorem runs_draw (x y : Reg) (n : Nibble) (s : State) : Runs (.draw x y n) s := by
  have hn := n.isLt
  rcases execDraw_cases x y n s with ⟨-, h⟩ | ⟨-, hout, h⟩
  · exact .done h (.of_regs (onlyChanges_blit s _ _ _) rfl .two rfl (reg_setReg_eq_or _ vf _))
  · exact .fault h ⟨rfl, by omega⟩

/-- A key skip, either way round. -/
theorem Runs.of_poll {i : Instr} {s : State} {x : Reg} {p : Word} (hw : i.writes = [.keyPolls]) (hp : NextPc s p)
    (hle : (s.reg x).toNat ≤ 0x0F → exec i s = .next (s.drawKeyPoll.endCycle p))
    (hgt : 0x0F < (s.reg x).toNat → exec i s = .next (s.raise .unknownKey (byteWord (s.reg x)))) : Runs i s := by
  have hb := (s.reg x).isLt
  by_cases h : (s.reg x).toNat ≤ 0x0F
  · exact .done (hle h) (.of_frame (onlyChanges_drawKeyPoll s) hw hp rfl)
  · refine .fault (hgt (by omega)) ?_
    rw [FaultCause, byteWord_toNat]
    omega

theorem runs_waitKeyPressed (x : Reg) (s : State) : Runs (.waitKeyPressed x) s := by
  cases h : s.keyEvent with
  | none => exact ⟨_, by rw [exec_waitKeyPressed, State.awaitKey_of_none h], .hold rfl h⟩
  | some k =>
    have hpc : NextPc s (keyWaitNextPc s.params.fx0aPc s.pc) := by
      cases s.params.fx0aPc
      · exact .two
      · exact .inl rfl
    exact .done (by rw [exec_waitKeyPressed, State.awaitKey_of_some h])
      { frame := onlyChanges_gotKey s x k
        nextPc := hpc
        regs := reg_setReg_eq_or _ x _
        memory := .inl rfl
        stack := fun k hk => .inl rfl
        hold := fun _ => rfl }

theorem runs_loadRegisters (x : Reg) (s : State) : Runs (.loadRegisters x) s := by
  have hx := x.isLt
  by_cases h : s.i.toNat + x.toNat ≤ 0xFFF
  · refine .done (exec_loadRegisters_of_fits h) (.of_regs (onlyChanges_setRegsFrom s 0 _) rfl .two
      (State.setRegsFrom_mem s 0 _) fun r => ?_)
    by_cases hr : r.toNat ≤ x.toNat
    · exact .inr hr
    · exact .inl (by rw [reg_loadedFromIndex, if_neg hr])
  · exact .fault (exec_loadRegisters_of_not_fits (by omega)) ⟨rfl, by omega⟩

/-- Every instruction, from every state. -/
theorem runs_every_instr (i : Instr) (s : State) : Runs i s := by
  have hnone (p : Word) (hp : NextPc s p) {i : Instr} (hw : i.writes = []) : Completes i s s p :=
    .of_frame (.refl s) hw hp rfl
  cases i with
  | clearScreen => exact .done (exec_clearScreen s) (.of_frame (onlyChanges_clear s) rfl .two rfl)
  | ret => exact runs_ret s
  | jump a => exact .done (exec_jump a s) (hnone _ (.inr (.inr (.inr (.inl ⟨a, rfl⟩)))) rfl)
  | call a => exact runs_call a s
  | skipEqualByte x kk => exact .done (exec_skipEqualByte x kk s) (hnone _ .skip rfl)
  | skipNotEqualByte x kk => exact .done (exec_skipNotEqualByte x kk s) (hnone _ .skip_not rfl)
  | skipEqualReg x y => exact .done (exec_skipEqualReg x y s) (hnone _ .skip rfl)
  | loadByte x kk => exact .of_setReg (exec_loadByte x kk s) rfl rfl
  | addByte x kk => exact .of_setReg (exec_addByte x kk s) rfl rfl
  | move x y => exact .of_setReg (exec_move x y s) rfl rfl
  | or x y => exact .of_setReg (exec_or x y s) rfl rfl
  | and x y => exact .of_setReg (exec_and x y s) rfl rfl
  | xor x y => exact .of_setReg (exec_xor x y s) rfl rfl
  | add x y => exact .done (exec_add x y s) (.of_regs (onlyChanges_aluFlagLast s .add x _) rfl .two
      (State.aluFlagLast_mem s _ x _) (reg_aluFlagLast_eq_or s .add x _))
  | sub x y => exact .of_aluFlagged (exec_sub x y s) rfl rfl
  | shr x => exact .of_aluFlagged (exec_shr x s) rfl rfl
  | subn x y => exact runs_subn x y s
  | shl x => exact .of_aluFlagged (exec_shl x s) rfl rfl
  | skipNotEqualReg x y => exact .done (exec_skipNotEqualReg x y s) (hnone _ .skip_not rfl)
  | loadIndex a => exact .done (exec_loadIndex a s) (.of_frame (onlyChanges_setIndex s _) rfl .two rfl)
  | jumpV0 a => exact .done (exec_jumpV0 a s) (hnone _ (.inr (.inr (.inr (.inr (.inl ⟨a, rfl⟩))))) rfl)
  | random x kk => exact .done (exec_random x kk s) (.of_regs
      ((onlyChanges_drawRand s).trans (onlyChanges_setReg s.drawRand x _)) rfl .two rfl (reg_setReg_eq_or _ x _))
  | draw x y n => exact runs_draw x y n s
  | skipKeyPressed x => exact .of_poll rfl .skip exec_skipKeyPressed_of_le exec_skipKeyPressed_of_gt
  | skipKeyNotPressed x => exact .of_poll rfl .skip_not exec_skipKeyNotPressed_of_le exec_skipKeyNotPressed_of_gt
  | getDelay x => exact .of_setReg (exec_getDelay x s) rfl rfl
  | waitKeyPressed x => exact runs_waitKeyPressed x s
  | setDelay x => exact .done (exec_setDelay x s) (.of_frame (onlyChanges_setDelay s _) rfl .two rfl)
  | setSound x => exact .done (exec_setSound x s) (.of_frame (onlyChanges_setSound s _) rfl .two rfl)
  | addI x => exact .done (exec_addI x s) (.of_frame (onlyChanges_setIndex s _) rfl .two rfl)
  | loadSprite x => exact .done (exec_loadSprite x s) (.of_frame (onlyChanges_setIndex s _) rfl .two rfl)
  | loadBCD x =>
    exact .of_store (exec_loadBCD x s) rfl ⟨x, .inl rfl⟩ (by rw [bcdDigits_length]; decide)
      (by rw [bcdDigits_length]; decide)
  | saveRegisters x => exact .of_store (exec_saveRegisters x s) rfl ⟨x, .inr rfl⟩ (by simp) (by simp; omega)
  | loadRegisters x => exact runs_loadRegisters x s

/-- What a next state of `exec` can be: the inversion of `runs_every_instr`. -/
theorem outcomes_of_exec {i : Instr} {s t : State} (h : exec i s = .next t) : Outcomes i s t := by
  obtain ⟨t', h', hout⟩ := runs_every_instr i s
  rw [h] at h'
  cases h'
  exact hout

end Sys2Proof.Machine

/-! The invariant (`State.Inv`): kept by every step from every state that meets it. -/

namespace Sys2Proof

open Sys2Proof.Machine

theorem Instr.record_not_mem_writes (i : Instr) : Part.record ∉ i.writes := by cases i <;> simp [Instr.writes]
theorem Instr.params_not_mem_writes (i : Instr) : Part.params ∉ i.writes := by cases i <;> simp [Instr.writes]

end Sys2Proof

namespace Sys2Proof.Machine

open Sys2Proof.Config

section Inv
variable {s : State}

theorem State.Inv.drawRunning (h : s.Inv) : s.drawRunning.Inv :=
  { h with boot := fun hopen => congrArg State.drawRunning (h.boot hopen) }

/-- Fault entry of a running engine that holds for no key. -/
theorem State.Inv.raise (h : s.Inv) (hhold : s.hold = none) {code : FaultCode} (info : Word) (hcode : code ≠ .none)
    (hsubn : code = .subnUnderflow → s.params.subnUnderflow = .fault) : (s.raise code info).Inv :=
  { h with
    runRecord := nofun
    faultRecord := fun _ => ⟨hcode, rfl, hhold, rfl⟩
    holdOpen := fun w hw => by rw [State.raise_hold, hhold] at hw; cases hw
    subnRecord := hsubn
    boot := nofun }

theorem State.Inv.halt (h : s.Inv) (hrun : s.status = .run) (hhold : s.hold = none) : s.halt.Inv :=
  { h with
    faultRecord := fun hf => by rw [State.halt_status, hrun] at hf; cases hf
    holdOpen := fun w hw => by rw [State.halt_hold, hhold] at hw; cases hw
    boot := nofun }

/-- The answer of a faulted engine is the recorded fault already. -/
theorem State.Inv.repeatFault (h : s.Inv) (hfault : s.status = .fault) : s.repeatFault = s := by
  obtain ⟨-, -, -, hresp⟩ := h.faultRecord hfault
  rw [State.repeatFault, ← hresp]

/-- A hold inside the cycle at pc. -/
theorem State.Inv.holding (h : s.Inv) (hrun : s.status = .run) {w : KeyWait} (hw : w.pc = s.pc)
    (hpc : s.pc.toNat ≤ 0xFFE) : (s.holding w).Inv :=
  { h with
    faultRecord := fun hf => by cases hrun.symm.trans hf
    holdOpen := by rintro _ ⟨⟩; exact ⟨hrun, hw, hpc, rfl⟩
    boot := nofun }

/-- pc at the end of a completed cycle is at most 0x10FE (R25). -/
theorem NextPc.le {p : Word} (hp : NextPc s p) (hpc : s.pc.toNat ≤ 0xFFE)
    (hstack : ∀ k (h : k < 16), s.stack[k].toNat ≤ 0x1000) : p.toNat ≤ 0x10FE := by
  rcases hp with rfl | rfl | rfl | ⟨a, rfl⟩ | ⟨a, rfl⟩ | ⟨k, hk, rfl⟩
  · omega
  · bv_omega
  · bv_omega
  · have ha := a.isLt
    rw [← addrWord, addrWord_toNat]; omega
  · have ha := a.isLt
    have hb := (s.reg 0x0#4).isLt
    rw [State.jumpV0Target_toNat]; omega
  · have := hstack k hk
    omega

theorem MemoryAfter.wf {i : Instr} {m : Memory} (h : MemoryAfter i s m) (hm : Memory.wf s.mem) : Memory.wf m := by
  rcases h with rfl | ⟨-, bytes, -, hfit, rfl⟩
  · exact hm
  · exact Memory.putAll_wf hm hfit

/-- A completed cycle of a running engine that holds for no key. -/
theorem State.Inv.endCycle {i : Instr} {u : State} {p : Word} (h : s.Inv) (hrun : s.status = .run)
    (hhold : s.hold = none) (hpc : s.pc.toNat ≤ 0xFFE) (hc : Completes i s u p) : (u.endCycle p).Inv := by
  obtain ⟨hstatus, hcode, hfpc, hfinfo⟩ := hc.frame .record i.record_not_mem_writes
  have hparams : u.params = s.params := hc.frame .params i.params_not_mem_writes
  refine
    { memory := hc.memory.wf h.memory
      pcRange := hc.nextPc.le hpc h.stackRange
      stackRange := fun k hk => ?_
      runRecord := fun _ => ?_
      faultRecord := fun hf => ?_
      holdOpen := fun w hw => ?_
      subnRecord := fun hsubn => ?_
      boot := nofun }
  · rw [State.endCycle_stack]
    rcases hc.stack k hk with hs | hs <;> rw [hs]
    · exact h.stackRange k hk
    · bv_omega
  · rw [State.endCycle_faultCode, State.endCycle_faultPc, State.endCycle_faultInfo, hcode, hfpc, hfinfo]
    exact h.runRecord hrun
  · rw [State.endCycle_status, hstatus, hrun] at hf; cases hf
  · rw [State.endCycle_hold, hc.hold hhold] at hw; cases hw
  · rw [State.endCycle_faultCode, hcode] at hsubn
    rw [State.endCycle_params, hparams]
    exact h.subnRecord hsubn

theorem FaultCause.ne_none {info : Word} {code : FaultCode} (h : FaultCause s info code) : code ≠ .none := by
  rintro rfl
  exact h

theorem State.Inv.exec {i : Instr} {t : State} (h : s.Inv) (hrun : s.status = .run) (hhold : s.hold = none)
    (hpc : s.pc.toNat ≤ 0xFFE) (hout : Outcomes i s t) : t.Inv := by
  cases hout with
  | fault cause => exact h.raise hhold _ cause.ne_none fun hsubn => by subst hsubn; exact cause
  | hold wait silent => exact h.holding hrun rfl hpc
  | done hc => exact h.endCycle hrun hhold hpc hc

/-- A look of a held engine is `WaitKeyPressed` at the waiting word's pc, so it keeps the invariant as that
instruction does from a state that does not hold yet. -/
theorem State.Inv.awaitKey (h : s.Inv) {w : KeyWait} (hhold : s.hold = some w) : (s.awaitKey w).Inv := by
  obtain ⟨hrun, hw, hpc, -⟩ := h.holdOpen w hhold
  cases hk : s.keyEvent with
  | none => rw [State.awaitKey_of_none hk]; exact h.holding hrun hw hpc
  | some k =>
    have hbefore : ({ s with hold := none, loadOpen := false } : State).Inv :=
      { h with
        faultRecord := fun hf => by cases hrun.symm.trans hf
        holdOpen := nofun
        boot := nofun }
    have hdone : Outcomes (.waitKeyPressed w.x) { s with hold := none, loadOpen := false } (s.awaitKey w) := by
      apply outcomes_of_exec
      rw [exec_waitKeyPressed, State.awaitKey_of_some hk, State.awaitKey_of_some (by exact hk), hw]
      rfl
    exact hbefore.exec hrun rfl hpc hdone

end Inv

/-- Settles O20, by what a step can do. -/
theorem everyStepKeepsTheInvariant : Obligations.EveryStepKeepsTheInvariant := by
  intro s t h hstep
  rcases step_cases hstep with ⟨hfault, rfl⟩ | ⟨-, w, hhold, rfl⟩ | ⟨hrun, hhold, -, rfl⟩ |
    ⟨⟨-, hhold, -⟩, -, rfl⟩ | ⟨⟨-, hhold, -⟩, w, e, -, -, rfl⟩ | ⟨⟨hrun, hhold, -⟩, w, i, hf, -, hexec⟩
  · rw [h.repeatFault hfault]; exact h
  · exact h.awaitKey hhold
  · exact h.drawRunning.halt hrun hhold
  · exact h.drawRunning.raise hhold _ nofun nofun
  · exact h.drawRunning.raise hhold _ nofun nofun
  · obtain ⟨hpc, -⟩ := State.fetchWord_eq_some hf
    exact h.drawRunning.exec hrun hhold hpc (outcomes_of_exec hexec)

end Sys2Proof.Machine

/-! Which instruction changes which part: the frame of `Outcomes`. -/

namespace Sys2Proof.Machine

open Sys2Proof.Config

/-- What the end of any cycle may write, whatever the instruction. -/
def engineParts : List Part := [.pc, .delay, .sound, .record, .resp, .loadPort]

section Outcomes
variable {i : Instr} {s t : State}

theorem Outcomes.frame (h : Outcomes i s t) : OnlyChanges (engineParts ++ i.writes) s t := by
  cases h with
  | fault cause => exact (onlyChanges_raise s _ _).mono (by simp [engineParts])
  | hold wait silent => subst wait; exact (onlyChanges_holding s _).mono (by simp [engineParts, Instr.writes])
  | done hc =>
    refine (hc.frame.trans (onlyChanges_endCycle _ _)).mono (List.append_subset.2 ⟨?_, by simp⟩)
    simp [doneParts, engineParts]

/-- A part that an instruction changed, and that the end of a cycle does not write, is one of its own. -/
theorem mem_writes_of_changed {p : Part} (h : exec i s = .next t) (hp : p ∉ engineParts)
    (hne : ¬ Unchanged s t p) : p ∈ i.writes := by
  by_contra hw
  exact hne ((outcomes_of_exec h).frame p (by simp [hp, hw]))

/-- No outcome but a fault is in FAULT. -/
theorem Outcomes.fault_of_status (h : Outcomes i s t) (hrun : s.status = .run) (hf : t.status = .fault) :
    ∃ code info, t = s.raise code info ∧ FaultCause s info code := by
  cases h with
  | fault cause => exact ⟨_, _, rfl, cause⟩
  | hold wait silent => cases hrun.symm.trans hf
  | done hc =>
    obtain ⟨hstatus, -⟩ := hc.frame .record i.record_not_mem_writes
    cases (hstatus.trans hrun).symm.trans hf

theorem Outcomes.loadOpen (h : Outcomes i s t) : t.loadOpen = false := by
  cases h <;> rfl

end Outcomes

/-! ### One part each -/

section Writes
variable (i : Instr)

theorem screen_mem_writes_iff : Part.screen ∈ i.writes ↔ i = .clearScreen ∨ ∃ x y n, i = .draw x y n := by
  cases i <;> simp [Instr.writes]

theorem collision_mem_writes_iff : Part.collision ∈ i.writes ↔ ∃ x y n, i = .draw x y n := by
  cases i <;> simp [Instr.writes]

theorem stack_mem_writes_iff : Part.stack ∈ i.writes ↔ i = .ret ∨ ∃ a, i = .call a := by
  cases i <;> simp [Instr.writes]

theorem index_mem_writes_iff : Part.index ∈ i.writes ↔
    (∃ a, i = .loadIndex a) ∨ (∃ x, i = .addI x) ∨ ∃ x, i = .loadSprite x := by
  cases i <;> simp [Instr.writes]

theorem random_mem_writes_iff : Part.random ∈ i.writes ↔ ∃ x kk, i = .random x kk := by
  cases i <;> simp [Instr.writes]

theorem keyPolls_mem_writes_iff :
    Part.keyPolls ∈ i.writes ↔ ∃ x, i = .skipKeyPressed x ∨ i = .skipKeyNotPressed x := by
  cases i <;> simp [Instr.writes]

theorem keyWaits_mem_writes_iff : Part.keyWaits ∈ i.writes ↔ ∃ x, i = .waitKeyPressed x := by
  cases i <;> simp [Instr.writes]

theorem running_not_mem_writes : Part.running ∉ i.writes := by
  cases i <;> simp [Instr.writes]

end Writes

/-- Settles O54: an instruction that changes the stack writes it. -/
theorem onlyCallAndReturnChangeTheStack : Obligations.OnlyCallAndReturnChangeTheStack := by
  intro i s t h hne
  refine (stack_mem_writes_iff i).1 (mem_writes_of_changed h (by decide) fun hsame => ?_)
  obtain ⟨hsp, hstack⟩ := hsame
  rcases hne with hne | hne
  · exact hne hsp
  · exact hne hstack

/-- Settles O55: an instruction that changes I writes it. -/
theorem onlyThreeInstructionsWriteI : Obligations.OnlyThreeInstructionsWriteI := by
  intro i s t h hne
  exact (index_mem_writes_iff i).1 (mem_writes_of_changed h (by decide) hne)

/-- Settles O57: an instruction that consumes an answer writes that input, and none writes `running`. -/
theorem onlyTheirInstructionsAskTheEnvironment : Obligations.OnlyTheirInstructionsAskTheEnvironment := by
  intro i s t h
  exact ⟨(outcomes_of_exec h).frame .running (by simp [engineParts, running_not_mem_writes i]),
    fun hne => (random_mem_writes_iff i).1 (mem_writes_of_changed h (by decide) hne),
    fun hne => (keyPolls_mem_writes_iff i).1 (mem_writes_of_changed h (by decide) hne),
    fun hne => (keyWaits_mem_writes_iff i).1 (mem_writes_of_changed h (by decide) hne)⟩

/-! ### Memory (20_memory.md R50) -/

/-- A write touches its own address only, in memory of any form. -/
theorem Memory.read_put_of_ne (m : Memory) {a c : Nat} (b : Byte) (h : c ≠ a) :
    Memory.read (Memory.put m a b) c = Memory.read m c := by
  have hentry (m : Memory) : Memory.read (Memory.entry a b ++ m) c = Memory.read m c := by
    unfold Memory.entry
    split
    · rfl
    · simp [Memory.read, h]
  induction m with
  | nil => simpa [Memory.put] using hentry []
  | cons d m ih =>
    obtain ⟨a', b'⟩ := d
    simp only [Memory.put]
    split
    · exact hentry _
    · split
      case isTrue heq =>
        have hne : c ≠ a' := heq ▸ h
        simp [hentry, Memory.read, hne]
      case isFalse => simp only [Memory.read, ih]

theorem Memory.read_putAll_of_outside (m : Memory) {a c : Nat} (bs : List Byte) (h : c < a ∨ a + bs.length ≤ c) :
    Memory.read (Memory.putAll m a bs) c = Memory.read m c := by
  induction bs generalizing m a with
  | nil => rfl
  | cons b bs ih =>
    rw [List.length_cons] at h
    rw [Memory.putAll, ih _ (by omega), Memory.read_put_of_ne m b (by omega)]

/-- Settles O53: a byte outside the store of a completed cycle is as before. -/
theorem onlyTheTwoStoresChangeMemory : Obligations.OnlyTheTwoStoresChangeMemory := by
  intro i s t a h hne
  cases outcomes_of_exec h with
  | fault cause => exact absurd rfl hne
  | hold wait silent => exact absurd rfl hne
  | @done u p hc =>
    rcases hc.memory with hmem | ⟨hi, bytes, hlen, hfit, hmem⟩
    · exact absurd (congrArg (Memory.read · a) hmem) hne
    · have hin : ¬ (a < s.i.toNat ∨ s.i.toNat + bytes.length ≤ a) := fun hout =>
        hne (by rw [State.endCycle_mem, hmem, Memory.read_putAll_of_outside _ _ hout])
      exact ⟨hi, by omega, by omega, by omega⟩

/-! ### VF (10_state.md R21) -/

theorem reg_eq_or_targets {i : Instr} {s t : State} (h : exec i s = .next t) (r : Reg) :
    t.reg r = s.reg r ∨ i.targets r := by
  cases outcomes_of_exec h with
  | fault cause => exact .inl rfl
  | hold wait silent => exact .inl rfl
  | done hc => exact hc.regs r

/-- Settles O56: the instructions that may write VF are those of which it is a target. -/
theorem vfChangesOnlyAsFlagOrDestination : Obligations.VfChangesOnlyAsFlagOrDestination := by
  intro i s t h hne
  have ht : i.targets vf := (reg_eq_or_targets h vf).resolve_left hne
  cases i with
  | loadRegisters x =>
    have hx : x = vf := by
      have hle : (15 : Nat) ≤ x.toNat := ht
      exact BitVec.eq_of_toNat_eq (by have := x.isLt; show x.toNat = 15; omega)
    simp [hx]
  | _ => simp_all [Instr.targets]

/-! ### The screen (45_framebuffer_blitter.md R258) -/

/-- What a step may change without running an instruction: by its answer, a look at the key source or the
`isRunning` query. -/
def stepParts : List Part := engineParts ++ [.regs, .hold, .keyWaits, .running]

/-- Any other part is changed by the decoded instruction, which then writes it. -/
theorem instr_of_changed {s t : State} {p : Part} (hstep : step s = .next t) (hp : p ∉ stepParts)
    (hne : ¬ Unchanged s t p) :
    ∃ w i, s.fetchWord = some w ∧ decodeWord s.params.strict59 w = .instr i ∧ p ∈ i.writes := by
  have hnot {ps : List Part} (hframe : OnlyChanges ps s t) (hsub : ps ⊆ stepParts) : False :=
    hne (hframe p fun hin => hp (hsub hin))
  rcases step_cases hstep with ⟨-, rfl⟩ | ⟨-, w, -, rfl⟩ | ⟨-, -, -, rfl⟩ | ⟨-, -, rfl⟩ | ⟨-, w, e, -, -, rfl⟩ |
    ⟨-, w, i, hf, hd, hexec⟩
  · exact (hnot (onlyChanges_repeatFault s) (by decide)).elim
  · exact (hnot (onlyChanges_awaitKey s w) (by decide)).elim
  · exact (hnot ((onlyChanges_drawRunning s).trans (onlyChanges_halt _)) (by decide)).elim
  · exact (hnot ((onlyChanges_drawRunning s).trans (onlyChanges_raise _ _ _)) (by decide)).elim
  · exact (hnot ((onlyChanges_drawRunning s).trans (onlyChanges_raise _ _ _)) (by decide)).elim
  · obtain ⟨hengine, hother⟩ := not_or.1 (mt List.mem_append.2 hp)
    have hquery : Unchanged s s.drawRunning p := onlyChanges_drawRunning s p (by simp_all)
    exact ⟨w, i, hf, hd, mem_writes_of_changed hexec hengine fun h => hne (hquery.trans h)⟩

/-- Settles O52: cells are no part that a step changes by itself, and two instructions write them. -/
theorem onlyClearScreenAndDrawChangeTheScreen : Obligations.OnlyClearScreenAndDrawChangeTheScreen := by
  intro s t hstep hne
  obtain ⟨w, i, hf, hd, hi⟩ := instr_of_changed (p := .screen) hstep (by decide) hne
  refine ⟨w, hf, ?_⟩
  rw [hd]
  rcases (screen_mem_writes_iff i).1 hi with rfl | ⟨x, y, n, rfl⟩
  · exact .inl rfl
  · exact .inr ⟨x, y, n, rfl⟩

/-! ### The timers (R104) -/

/-- An instruction that sets no timer. -/
theorem timers_of_not_set {i : Instr} {s t : State} (h : exec i s = .next t) (hd : .delay ∉ i.writes)
    (hs : .sound ∉ i.writes) :
    (t.resp = some .done → t.dt.toNat = s.dt.toNat - 1 ∧ t.st.toNat = s.st.toNat - 1) ∧
    (t.resp ≠ some .done → t.dt = s.dt ∧ t.st = s.st) := by
  cases outcomes_of_exec h with
  | fault cause => exact ⟨nofun, fun _ => ⟨rfl, rfl⟩⟩
  | hold wait silent => exact ⟨nofun, fun _ => ⟨rfl, rfl⟩⟩
  | @done u p hc =>
    have hdt : u.dt = s.dt := hc.frame .delay hd
    have hst : u.st = s.st := hc.frame .sound hs
    refine ⟨fun _ => ⟨?_, ?_⟩, fun hne => absurd rfl hne⟩
    · rw [State.endCycle_dt, timerStep_toNat, hdt]
    · rw [State.endCycle_st, timerStep_toNat, hst]

/-- Settles O18: `SetDelay` and `SetSound` always complete, from the value they set. -/
theorem timersFallOncePerCompletedCycle : Obligations.TimersFallOncePerCompletedCycle := by
  intro i s t h
  cases i with
  | setDelay x =>
    rw [exec_setDelay] at h
    cases h
    exact ⟨fun _ => ⟨timerStep_toNat _, timerStep_toNat _⟩, fun hne => absurd rfl hne⟩
  | setSound x =>
    rw [exec_setSound] at h
    cases h
    exact ⟨fun _ => ⟨timerStep_toNat _, timerStep_toNat _⟩, fun hne => absurd rfl hne⟩
  | _ => exact timers_of_not_set h (by simp [Instr.writes]) (by simp [Instr.writes])

end Sys2Proof.Machine

/-! Faults (60_exceptions.md section 1), and that every step goes on. -/

namespace Sys2Proof.Machine

open Sys2Proof.Config

/-- What the fault of a step says about the state that raised it: a fetch outside memory, a word that fails decode,
or the cause of a decoded instruction's fault. -/
inductive StepFaultCause (s : State) : FaultCode → Word → Prop where
  | fetch (h : 0xFFE < s.pc.toNat) : StepFaultCause s .memoryOutOfBounds s.pc
  | decode {w : Word} (hf : s.fetchWord = some w) (hd : decodeWord s.params.strict59 w = .unknownOpcode w) :
      StepFaultCause s .decodeError w
  | exec {code : FaultCode} {info : Word} (cause : FaultCause s info code) : StepFaultCause s code info

/-- A step that takes a running engine into FAULT raises a fault after the `isRunning` query, and does nothing
else. -/
theorem raise_of_step_to_fault {s t : State} (hrun : s.status = .run) (hstep : step s = .next t)
    (hf : t.status = .fault) : ∃ code info, t = s.drawRunning.raise code info ∧ StepFaultCause s code info := by
  rcases step_cases hstep with ⟨hfault, -⟩ | ⟨-, w, -, rfl⟩ | ⟨-, -, -, rfl⟩ | ⟨-, hnone, rfl⟩ |
    ⟨-, w, e, hw, hd, rfl⟩ | ⟨-, w, i, -, -, hexec⟩
  · cases hrun.symm.trans hfault
  · obtain ⟨hstatus, -⟩ := onlyChanges_awaitKey s w .record (by decide)
    cases (hstatus.trans hrun).symm.trans hf
  · cases hrun.symm.trans hf
  · refine ⟨_, _, rfl, .fetch ?_⟩
    by_contra hle
    rw [State.fetchWord_some (by omega)] at hnone
    cases hnone
  · obtain ⟨rfl, -⟩ := (decodeFailsExactlyOnTheListedWords _ _ _).1 hd
    exact ⟨_, _, rfl, .decode hw hd⟩
  · obtain ⟨code, info, rfl, cause⟩ := (outcomes_of_exec hexec).fault_of_status hrun hf
    exact ⟨code, info, rfl, .exec cause⟩

/-- Settles O16: the step is the query and the fault's entry, each with its frame. -/
theorem faultingCycleCommitsNothing : Obligations.FaultingCycleCommitsNothing := by
  intro s t hrun hstep hf
  obtain ⟨code, info, rfl, -⟩ := raise_of_step_to_fault hrun hstep hf
  exact ⟨rfl, rfl, (onlyChanges_drawRunning s).trans (onlyChanges_raise s.drawRunning code info)⟩

/-- Settles O17, by the cause of the fault. -/
theorem faultRecordMatchesItsCause : Obligations.FaultRecordMatchesItsCause := by
  intro s t hrun hstep hf
  obtain ⟨code, info, rfl, cause⟩ := raise_of_step_to_fault hrun hstep hf
  cases cause with
  | fetch h => exact .inl ⟨rfl, h⟩
  | decode hw hd => exact ⟨hw, hd⟩
  | exec cause =>
    cases code with
    | none => exact cause
    | decodeError => exact cause.elim
    | unknownKey => exact cause
    | stackOverflow => exact cause
    | stackUnderflow => exact cause
    | memoryOutOfBounds => exact .inr cause
    | subnUnderflow => exact cause

theorem step_next (s : State) : ∃ t, step s = .next t := by
  cases hs : s.status with
  | fault => exact ⟨_, step_of_fault hs⟩
  | run =>
    cases hh : s.hold with
    | some w => exact ⟨_, step_of_hold hs hh⟩
    | none =>
      cases hr : s.runningNow with
      | false => exact ⟨_, step_of_not_running hs hh hr⟩
      | true =>
        have hready : Ready s := ⟨hs, hh, hr⟩
        cases hf : s.fetchWord with
        | none => exact ⟨_, step_of_no_fetch hready hf⟩
        | some w =>
          cases hd : decodeWord s.params.strict59 w with
          | unknownOpcode e => exact ⟨_, step_of_unknownOpcode hready hf hd⟩
          | instr i =>
            obtain ⟨t, ht, -⟩ := runs_every_instr i s.drawRunning
            exact ⟨t, (step_of_decoded hready hf hd).trans ht⟩

/-- Settles O11: no step changes the parameters by itself, and no instruction writes them. -/
theorem everyStepAnswersANextState : Obligations.EveryStepAnswersANextState := by
  intro s
  obtain ⟨t, hstep⟩ := step_next s
  refine ⟨t, hstep, ?_⟩
  by_contra hne
  obtain ⟨-, i, -, -, hi⟩ := instr_of_changed (p := .params) hstep (by decide) hne
  exact i.params_not_mem_writes hi

/-- A step of a running engine closes the load port. -/
theorem loadOpen_of_step {s t : State} (hrun : s.status = .run) (hstep : step s = .next t) : t.loadOpen = false := by
  rcases step_cases hstep with ⟨hfault, -⟩ | ⟨-, w, -, rfl⟩ | ⟨-, -, -, rfl⟩ | ⟨-, -, rfl⟩ | ⟨-, w, e, -, -, rfl⟩ |
    ⟨-, w, i, -, -, hexec⟩
  · cases hrun.symm.trans hfault
  · exact State.awaitKey_loadOpen s w
  · rfl
  · rfl
  · rfl
  · exact (outcomes_of_exec hexec).loadOpen

/-- Settles O23: by whether the port is open and the image fits; a step of a running engine closes the port. -/
theorem romLoadCopiesTheImageOrRefuses : Obligations.RomLoadCopiesTheImageOrRefuses := by
  intro s rom
  refine ⟨fun hopen hm hlen => ⟨_, State.loadRom_of_fits hopen hlen, fun a => Memory.read_putAll hm.1 _ a _, ?_⟩,
    State.loadRom_of_too_large, fun hclosed => State.loadRom_of_closed hclosed rom,
    fun t hrun hstep => State.loadRom_of_closed (loadOpen_of_step hrun hstep) rom⟩
  intro p hp
  cases p <;> simp_all [Unchanged, State.reg]

end Sys2Proof.Machine

/-! The sprite blitter (45_framebuffer_blitter.md R253 to R255): a set of cells is XORed, each at most once. -/

namespace Sys2Proof.Machine

/-- `st'` is `st` after every cell of `cov` was XORed once, a collision noted where one was 1. -/
structure Xors (cov : Nat → Nat → Prop) (st st' : Blit) : Prop where
  cell : ∀ r c, r < 32 → c < 64 → (st'.1.cell r c = true ↔ ¬ (st.1.cell r c = true ↔ cov r c))
  flag : st'.2 = true ↔ st.2 = true ∨ ∃ r c, r < 32 ∧ c < 64 ∧ st.1.cell r c = true ∧ cov r c

section Xors
variable {cov cov₁ cov₂ : Nat → Nat → Prop} {st st₁ st₂ : Blit}

theorem Xors.of_empty (h : ∀ r c, ¬ cov r c) : Xors cov st st where
  cell r c _ _ := by simp [h]
  flag := by simp [h]

theorem Xors.congr (h : Xors cov₁ st st₁) (hcov : ∀ r c, cov₁ r c ↔ cov r c) : Xors cov st st₁ := by
  have heq : cov₁ = cov := funext₂ fun r c => propext (hcov r c)
  rwa [heq] at h

theorem xors_blitCell (st : Blit) {r c : Nat} (hr : r < 32) (hc : c < 64) :
    Xors (fun r' c' => r' = r ∧ c' = c) st (blitCell st r c) where
  cell r' c' _ _ := by
    rw [cell_blitCell st r c r' c' hr hc]
    split
    case isTrue h => simp [h]
    case isFalse h => simp [h]
  flag := by
    rw [blitCell_flag, Bool.or_eq_true]
    refine or_congr_right ⟨fun h => ⟨r, c, hr, hc, h, rfl, rfl⟩, ?_⟩
    rintro ⟨_, _, -, -, h, rfl, rfl⟩
    exact h

/-- Two disjoint sets of cells, one after the other, are their union: the second finds its cells as the first did. -/
theorem Xors.trans (h₁ : Xors cov₁ st st₁) (h₂ : Xors cov₂ st₁ st₂) (hdisj : ∀ r c, cov₁ r c → ¬ cov₂ r c) :
    Xors (fun r c => cov₁ r c ∨ cov₂ r c) st st₂ where
  cell r c hr hc := by
    have hd := hdisj r c
    rw [h₂.cell r c hr hc, h₁.cell r c hr hc]
    tauto
  flag := by
    have hsame (r c : Nat) (hr : r < 32) (hc : c < 64) (hcov : cov₂ r c) :
        st₁.1.cell r c = true ↔ st.1.cell r c = true := by
      have hd := hdisj r c
      rw [h₁.cell r c hr hc]
      tauto
    rw [h₂.flag, h₁.flag]
    constructor
    · rintro ((h | ⟨r, c, hr, hc, hcell, hcov⟩) | ⟨r, c, hr, hc, hcell, hcov⟩)
      · exact .inl h
      · exact .inr ⟨r, c, hr, hc, hcell, .inl hcov⟩
      · exact .inr ⟨r, c, hr, hc, (hsame r c hr hc hcov).1 hcell, .inr hcov⟩
    · rintro (h | ⟨r, c, hr, hc, hcell, hcov | hcov⟩)
      · exact .inl (.inl h)
      · exact .inl (.inr ⟨r, c, hr, hc, hcell, hcov⟩)
      · exact .inr ⟨r, c, hr, hc, (hsame r c hr hc hcov).2 hcell, hcov⟩

end Xors

/-- Column `col` of a sprite row at (x, r) covers the cell (r', c'): its bit is set and lands there (R254). -/
def ColumnCovers (bits : Byte) (x r col r' c' : Nat) : Prop :=
  bits.getLsbD (7 - col) = true ∧ r = r' ∧ (x + col) % 64 = c'

theorem xors_blitColumn (bits : Byte) (x : Nat) {r : Nat} (hr : r < 32) (st : Blit) (col : Nat) :
    Xors (ColumnCovers bits x r col) st (blitColumn bits x r st col) := by
  unfold blitColumn
  split
  case isTrue h => exact (xors_blitCell st hr (by omega)).congr (by simp [ColumnCovers, h, eq_comm])
  case isFalse h => exact .of_empty fun r' c' hcov => h hcov.1

/-- The first `m` columns of a row: no two land on the same cell. -/
theorem xors_columns (bits : Byte) (x : Nat) {r : Nat} (hr : r < 32) (st : Blit) (m : Nat) (hm : m ≤ 8) :
    Xors (fun r' c' => ∃ col < m, ColumnCovers bits x r col r' c') st
      ((List.range m).foldl (blitColumn bits x r) st) := by
  induction m with
  | zero => exact .of_empty (by simp)
  | succ m ih =>
    rw [List.range_succ, List.foldl_append]
    refine ((ih (by omega)).trans (xors_blitColumn bits x hr _ m) ?_).congr ?_
    · rintro r' c' ⟨col, hcol, -, -, hc⟩ ⟨-, -, hc'⟩
      omega
    · intro r' c'
      simp only [Nat.lt_succ_iff_lt_or_eq, or_and_right, exists_or, exists_eq_left]

theorem xors_blitRow (bits : Byte) (x : Nat) {r : Nat} (hr : r < 32) (st : Blit) :
    Xors (fun r' c' => ∃ col < 8, ColumnCovers bits x r col r' c') st (blitRow bits x r st) :=
  xors_columns bits x hr st 8 (by omega)

/-- The rows from number `row` on: a sprite of at most 32 rows reaches no row twice. -/
theorem xors_blitRows (x y : Nat) (bytes : List Byte) (row : Nat) (st : Blit) (h : row + bytes.length ≤ 32) :
    Xors (fun r c => ∃ k < bytes.length, ∃ col < 8,
        ColumnCovers (bytes.getD k 0x00#8) x ((y + (row + k)) % 32) col r c) st (blitRows x y row bytes st) := by
  induction bytes generalizing row st with
  | nil => exact .of_empty (by simp)
  | cons bits rest ih =>
    rw [List.length_cons] at h
    refine ((xors_blitRow bits x (r := (y + row) % 32) (by omega) st).trans (ih (row + 1) _ (by omega)) ?_).congr ?_
    · rintro r c ⟨_, -, -, hr, -⟩ ⟨k, hk, _, -, -, hr', -⟩
      omega
    · intro r c
      constructor
      · rintro (⟨col, hcol, hcov⟩ | ⟨k, hk, col, hcol, hcov⟩)
        · exact ⟨0, by simp, col, hcol, by simpa using hcov⟩
        · refine ⟨k + 1, by simpa using hk, col, hcol, ?_⟩
          rwa [show row + (k + 1) = row + 1 + k by omega, List.getD_cons_succ]
      · rintro ⟨k, hk, col, hcol, hcov⟩
        cases k with
        | zero => exact .inl ⟨col, hcol, by simpa using hcov⟩
        | succ k =>
          refine .inr ⟨k, by simpa using hk, col, hcol, ?_⟩
          rwa [show row + (k + 1) = row + 1 + k by omega, List.getD_cons_succ] at hcov

/-- The sprite of `n` bytes at I. -/
def State.spriteAtIndex (s : State) (n : Nibble) : List Byte :=
  (List.range n.toNat).map fun k => Memory.read s.mem (s.i.toNat + k)

theorem xors_displaySprite (s : State) (n : Nibble) (cx cy : Byte) :
    Xors (SpriteCovers s.mem s.i.toNat n.toNat cx cy) (s.fb, false) (displaySprite (s.spriteAtIndex n) cx cy s.fb) := by
  have hn := n.isLt
  have hlen : (s.spriteAtIndex n).length = n.toNat := by simp [State.spriteAtIndex]
  have hget (k : Nat) (hk : k < n.toNat) : (s.spriteAtIndex n).getD k 0x00#8 = Memory.read s.mem (s.i.toNat + k) := by
    simp [State.spriteAtIndex, List.getD_eq_getElem?_getD, hk]
  refine (xors_blitRows cx.toNat cy.toNat (s.spriteAtIndex n) 0 (s.fb, false) (by omega)).congr fun r c => ?_
  rw [hlen]
  refine exists_congr fun k => and_congr_right fun hk => ?_
  simp only [hget k hk, Nat.zero_add, ColumnCovers]

/-! ### `Draw` (R257) -/

theorem exec_draw_of_fits {x y : Reg} {n : Nibble} {s : State} (h : n.toNat = 0 ∨ s.i.toNat + n.toNat ≤ 4096) :
    exec (.draw x y n) s = .next ((s.blit (s.spriteAtIndex n) (s.reg x) (s.reg y)).endCycle (s.pc + 2)) := by
  rcases execDraw_cases x y n s with ⟨-, heq⟩ | ⟨hn, hout, -⟩
  · exact heq
  · omega

theorem exec_draw_of_not_fits {x y : Reg} {n : Nibble} {s : State} (hn : 0 < n.toNat)
    (h : 4096 < s.i.toNat + n.toNat) : exec (.draw x y n) s = .next (s.raise .memoryOutOfBounds s.i) := by
  rcases execDraw_cases x y n s with ⟨hfit, -⟩ | ⟨-, -, heq⟩
  · omega
  · exact heq

theorem flagByte_eq_one_iff (f : Bool) : flagByte f = 0x01#8 ↔ f = true := by
  cases f <;> decide

theorem flagByte_eq_one_or_zero (f : Bool) : flagByte f = 0x01#8 ∨ flagByte f = 0x00#8 := by
  cases f
  · exact .inr rfl
  · exact .inl rfl

theorem reg_blit_vf (s : State) (bs : List Byte) (cx cy : Byte) :
    (s.blit bs cx cy).reg vf = flagByte (displaySprite bs cx cy s.fb).2 :=
  State.reg_setReg_same _ _ _

theorem reg_blit_of_ne (s : State) (bs : List Byte) (cx cy : Byte) {q : Reg} (hq : q ≠ vf) :
    (s.blit bs cx cy).reg q = s.reg q :=
  State.reg_setReg_of_ne _ _ hq

/-- Settles O50: the blitter XORs the cells that the sprite covers, by `xors_displaySprite`. -/
theorem drawXorsTheSpriteAndReportsCollision : Obligations.DrawXorsTheSpriteAndReportsCollision := by
  intro x y n s covers
  have hxors := xors_displaySprite s n (s.reg x) (s.reg y)
  refine ⟨encodes_encode (.draw x y n), fun hfit => ⟨_, exec_draw_of_fits hfit, ?_, hxors.cell,
    fun q hq => reg_blit_of_ne s _ _ _ hq, ?_, ?_, ?_⟩,
    fun hn hout => ⟨_, exec_draw_of_not_fits hn hout, faultEntered_raise s _ _⟩⟩
  · exact cycleEnds_endCycle _ (onlyChanges_blit s _ _ _) (by decide) (by decide)
  · rw [State.endCycle_reg, reg_blit_vf]
    exact flagByte_eq_one_or_zero _
  · rw [State.endCycle_reg, reg_blit_vf, flagByte_eq_one_iff, hxors.flag]
    simp [covers]
  · rw [State.endCycle_reg, reg_blit_vf, flagByte_eq_one_iff, State.endCycle_collision, State.blit_collision]

/-- The cells that a sprite covers depend on the bytes of memory only. -/
theorem SpriteCovers.congr {m m' : Memory} (h : ∀ a, Memory.read m' a = Memory.read m a) (base rows : Nat)
    (cx cy : Byte) (r c : Nat) : SpriteCovers m' base rows cx cy r c ↔ SpriteCovers m base rows cx cy r c := by
  simp only [SpriteCovers, h]

theorem xor_twice {before between after cov : Prop} (h : between ↔ ¬ (before ↔ cov))
    (h' : after ↔ ¬ (between ↔ cov)) : after ↔ before := by
  tauto

/-- Settles O51: the second draw XORs the same cells, since memory, I and the coordinates are as before the first. -/
theorem drawingTwiceRestoresTheScreen : Obligations.DrawingTwiceRestoresTheScreen := by
  intro x y n s hx hy hfit
  obtain ⟨-, hdraw, -⟩ := drawXorsTheSpriteAndReportsCollision x y n s
  obtain ⟨t, ht, ⟨-, -, -, -, hframe⟩, hcell, hregs, -⟩ := hdraw hfit
  have hi : t.i = s.i := hframe .index (by decide)
  have hmem : ∀ a, Memory.read t.mem a = Memory.read s.mem a := hframe .memory (by decide)
  obtain ⟨-, hdraw', -⟩ := drawXorsTheSpriteAndReportsCollision x y n t
  rw [hi, hregs x hx, hregs y hy] at hdraw'
  obtain ⟨u, hu, -, hcell', -, -, hflag', -⟩ := hdraw' hfit
  simp only [SpriteCovers.congr hmem] at hcell' hflag'
  refine ⟨t, u, ht, hu, Screen.ext_cell fun r c hr hc => ?_, hflag'.trans ?_⟩
  · rw [Bool.eq_iff_iff]
    exact xor_twice (hcell r c hr hc) (hcell' r c hr hc)
  · refine exists_congr fun r => exists_congr fun c => and_congr_right fun hr => and_congr_right fun hc => ?_
    rw [← Bool.not_eq_true, hcell r c hr hc]
    exact and_congr_left fun hcov => by simp [hcov]

end Sys2Proof.Machine

/-! Parts that nothing reads but what writes them: ST, the dirty mark, the collision port and, except for `Random`,
the random source. A machine in which they are edited runs as before, and each of them depends on itself only. -/

namespace Sys2Proof.Machine

open Sys2Proof.Config

/-- Values for the four parts. -/
structure Unread where
  st : Byte
  dirty : Bool
  collision : Bool
  rng : Input Byte

/-- The machine with other values in the four parts. -/
def State.edit (s : State) (e : Unread) : State :=
  { s with st := e.st, dirty := e.dirty, collision := e.collision, rng := e.rng }

/-- While `s` goes to `t`, edits of `s` go to edits of `t`, and a part that was not edited before is not after. -/
structure KeepsUp (s : State) (e : Unread) (t : State) (e' : Unread) : Prop where
  st : e.st = s.st → e'.st = t.st
  dirty : e.dirty = s.dirty → e'.dirty = t.dirty
  collision : e.collision = s.collision → e'.collision = t.collision
  rng : e.rng = s.rng → e'.rng = t.rng

/-- The instruction does the same to the edited machine. -/
def Follows (i : Instr) (s : State) (e : Unread) : Prop :=
  ∃ t e', exec i s = .next t ∧ exec i (s.edit e) = .next (t.edit e') ∧ KeepsUp s e t e'

section Follows
variable {i : Instr} {s t u : State} {e e₁ : Unread} {p : Word}

theorem KeepsUp.of_eq (hst : u.st = s.st) (hdirty : u.dirty = s.dirty) (hcollision : u.collision = s.collision)
    (hrng : u.rng = s.rng) : KeepsUp s e u e where
  st h := h.trans hst.symm
  dirty h := h.trans hdirty.symm
  collision h := h.trans hcollision.symm
  rng h := h.trans hrng.symm

theorem Follows.fault {code : FaultCode} {info : Word} (h : exec i s = .next (s.raise code info))
    (h' : exec i (s.edit e) = .next ((s.edit e).raise code info)) : Follows i s e :=
  ⟨_, e, h, h', .of_eq rfl rfl rfl rfl⟩

/-- A completed cycle: ST falls in both machines. -/
theorem Follows.done (h : exec i s = .next (u.endCycle p))
    (h' : exec i (s.edit e) = .next ((u.edit e₁).endCycle p)) (hu : KeepsUp s e u e₁) : Follows i s e :=
  ⟨_, { e₁ with st := timerStep e₁.st }, h, h',
    { hu with st := fun heq => congrArg timerStep (hu.st heq) }⟩

/-- A completed cycle of an instruction that writes none of the four parts. -/
theorem Follows.of_frame {ps : List Part} (h : exec i s = .next (u.endCycle p))
    (h' : exec i (s.edit e) = .next ((u.edit e).endCycle p)) (hframe : OnlyChanges ps s u)
    (hsound : .sound ∉ ps := by decide) (hdirty : .dirty ∉ ps := by decide)
    (hcollision : .collision ∉ ps := by decide) (hrandom : .random ∉ ps := by decide) : Follows i s e :=
  .done h h' (.of_eq (hframe .sound hsound) (hframe .dirty hdirty) (hframe .collision hcollision)
    (hframe .random hrandom))

end Follows

section Edits
variable (s : State) (e : Unread)

theorem State.edit_writeFlag (o : Option Bool) : (s.edit e).writeFlag o = (s.writeFlag o).edit e := by
  cases o <;> rfl

theorem State.edit_aluFlagLast (op : AluOp) (x : Reg) (b : Byte) :
    (s.edit e).aluFlagLast op x b = (s.aluFlagLast op x b).edit e :=
  State.edit_writeFlag (s.setReg x (s.alu op (s.reg x) b).result) e _

theorem State.edit_resultSource (op : AluOp) (x : Reg) {g : State → Byte} (hg : g (s.edit e) = g s) :
    (s.edit e).resultSource op x g = (s.resultSource op x g).edit e := by
  rw [State.resultSource, State.resultSource, hg]
  show (match s.params.vfOrder with
    | .sequential => (s.edit e).writeFlag (s.alu op (s.reg x) (g s)).flag
    | .latched => s.edit e) = _
  cases s.params.vfOrder with
  | sequential => exact State.edit_writeFlag s e _
  | latched => rfl

theorem State.edit_aluFlagged (op : AluOp) (x : Reg) {g : State → Byte} (hg : ∀ t : State, g (t.edit e) = g t) :
    (s.edit e).aluFlagged op x g = (s.aluFlagged op x g).edit e := by
  cases h : s.params.vfOrder with
  | latched =>
    rw [s.aluFlagged_latched op x g h, (s.edit e).aluFlagged_latched op x g h, hg]
    exact s.edit_aluFlagLast e op x _
  | sequential =>
    have hs : (s.edit e).params.vfOrder = .sequential := h
    simp only [State.aluFlagged, h, hs, s.edit_resultSource e op x (hg s), hg]
    rfl

theorem State.edit_subnUnderflows (x y : Reg) : (s.edit e).subnUnderflows x y = s.subnUnderflows x y := by
  simp only [State.subnUnderflows, s.edit_resultSource e .subn x (g := (·.reg y)) rfl]
  rfl

theorem State.edit_setRegsFrom (k : Nat) (bs : List Byte) :
    (s.edit e).setRegsFrom k bs = (s.setRegsFrom k bs).edit e := by
  induction bs generalizing s k with
  | nil => rfl
  | cons b bs ih => exact ih (s.setReg (BitVec.ofNat 4 k) b) (k + 1)

/-- A look at the key source. -/
theorem follows_awaitKey (w : KeyWait) :
    ∃ e', (s.edit e).awaitKey w = (s.awaitKey w).edit e' ∧ KeepsUp s e (s.awaitKey w) e' := by
  cases hk : s.keyEvent with
  | none =>
    rw [State.awaitKey_of_none hk, State.awaitKey_of_none (s := s.edit e) hk]
    exact ⟨e, rfl, .of_eq rfl rfl rfl rfl⟩
  | some k =>
    rw [State.awaitKey_of_some hk, State.awaitKey_of_some (s := s.edit e) hk]
    exact ⟨{ e with st := timerStep e.st }, rfl, congrArg timerStep, id, id, id⟩

/-- One of the two stores. -/
theorem follows_store {i : Instr} {bytes : List Byte} (hpos : 0 < bytes.length)
    (h : exec i s = .next (s.storeAtIndex bytes)) (h' : exec i (s.edit e) = .next ((s.edit e).storeAtIndex bytes)) :
    Follows i s e := by
  by_cases hfit : s.i.toNat + bytes.length ≤ 4096
  · rw [State.storeAtIndex_of_fits hpos hfit] at h
    rw [State.storeAtIndex_of_fits (s := s.edit e) hpos hfit] at h'
    exact .of_frame h h' (onlyChanges_setMemory s _)
  · rw [State.storeAtIndex_of_not_fits hpos (by omega)] at h
    rw [State.storeAtIndex_of_not_fits (s := s.edit e) hpos (by show 4096 < s.i.toNat + _; omega)] at h'
    exact .fault h h'

theorem follows_call (a : Addr) : Follows (.call a) s e := by
  by_cases h : s.sp.val < 16
  · exact .of_frame (exec_call_of_lt a h) (exec_call_of_lt (s := s.edit e) a h) (onlyChanges_pushReturn s h)
  · have hfull : s.sp.val = 16 := by omega
    exact .fault (exec_call_of_full a hfull) (exec_call_of_full (s := s.edit e) a hfull)

theorem follows_ret : Follows .ret s e := by
  by_cases h : s.sp.val = 0
  · exact .fault (exec_ret_of_empty h) (exec_ret_of_empty (s := s.edit e) h)
  · obtain ⟨k, hk⟩ : ∃ k, s.sp.val = k + 1 := ⟨s.sp.val - 1, by omega⟩
    have hk16 : k < 16 := by omega
    exact .of_frame (exec_ret_of_pos hk16 hk) (exec_ret_of_pos (s := s.edit e) hk16 hk)
      (onlyChanges_setStack s _ s.stack)

/-- Sub, Shr, Shl, and Subn where it does not fault. -/
theorem follows_aluFlagged {i : Instr} {op : AluOp} {x : Reg} {g : State → Byte}
    (hg : ∀ t : State, g (t.edit e) = g t) (h : exec i s = .next ((s.aluFlagged op x g).endCycle (s.pc + 2)))
    (h' : exec i (s.edit e) = .next (((s.edit e).aluFlagged op x g).endCycle (s.pc + 2))) : Follows i s e := by
  rw [s.edit_aluFlagged e op x hg] at h'
  exact .of_frame h h' (onlyChanges_aluFlagged s op x g)

theorem follows_subn (x y : Reg) : Follows (.subn x y) s e := by
  by_cases h : s.params.subnUnderflow = .fault ∧ s.subnUnderflows x y = true
  · exact .fault (exec_subn_of_fault h.1 h.2)
      (exec_subn_of_fault (s := s.edit e) h.1 ((s.edit_subnUnderflows e x y).trans h.2))
  · exact follows_aluFlagged s e (fun _ => rfl) (exec_subn_of_not h)
      (exec_subn_of_not (s := s.edit e) (by rw [s.edit_subnUnderflows]; exact h))

/-- The collision port after a draw is the new flag in both machines. -/
theorem follows_draw (x y : Reg) (n : Nibble) : Follows (.draw x y n) s e := by
  by_cases h : n.toNat = 0 ∨ s.i.toNat + n.toNat ≤ 4096
  · exact .done (e₁ := { e with collision := (displaySprite (s.spriteAtIndex n) (s.reg x) (s.reg y) s.fb).2 })
      (exec_draw_of_fits h) (exec_draw_of_fits (s := s.edit e) h) ⟨id, id, fun _ => rfl, id⟩
  · exact .fault (exec_draw_of_not_fits (by omega) (by omega))
      (exec_draw_of_not_fits (s := s.edit e) (by omega) (by show 4096 < s.i.toNat + _; omega))

/-- A key skip, either way round: the edited machine polls the same input. -/
theorem follows_poll {i : Instr} {x : Reg} {p : Word}
    (hle : (s.reg x).toNat ≤ 0x0F → exec i s = .next (s.drawKeyPoll.endCycle p))
    (hle' : (s.reg x).toNat ≤ 0x0F → exec i (s.edit e) = .next ((s.edit e).drawKeyPoll.endCycle p))
    (hgt : 0x0F < (s.reg x).toNat → exec i s = .next (s.raise .unknownKey (byteWord (s.reg x))))
    (hgt' : 0x0F < (s.reg x).toNat →
      exec i (s.edit e) = .next ((s.edit e).raise .unknownKey (byteWord (s.reg x)))) : Follows i s e := by
  by_cases h : (s.reg x).toNat ≤ 0x0F
  · exact .of_frame (hle h) (hle' h) (onlyChanges_drawKeyPoll s)
  · exact .fault (hgt (by omega)) (hgt' (by omega))

theorem follows_loadRegisters (x : Reg) : Follows (.loadRegisters x) s e := by
  by_cases h : s.i.toNat + x.toNat ≤ 0xFFF
  · have h' := exec_loadRegisters_of_fits (s := s.edit e) h
    rw [s.edit_setRegsFrom e 0 _] at h'
    exact .of_frame (exec_loadRegisters_of_fits h) h' (onlyChanges_setRegsFrom s 0 _)
  · have h' : 0xFFF < s.i.toNat + x.toNat := by omega
    exact .fault (exec_loadRegisters_of_not_fits h') (exec_loadRegisters_of_not_fits (s := s.edit e) h')

/-- `Random` sees the source, so it follows an edit that leaves the source alone. -/
theorem follows_random (x : Reg) (kk : Byte) (hrng : e.rng = s.rng) : Follows (.random x kk) s e := by
  have hnow : (s.edit e).randNow = s.randNow := congrArg (Input.peek randByte) hrng
  have h' := exec_random x kk (s.edit e)
  rw [hnow] at h'
  exact .done (e₁ := { e with rng := e.rng.advance }) (exec_random x kk s) h' ⟨id, id, id, congrArg Input.advance⟩

/-- Every instruction, `Random` only where its source is not edited. -/
theorem follows_every_instr (i : Instr) (hrandom : ∀ x kk, i = .random x kk → e.rng = s.rng) : Follows i s e := by
  have hreg (i : Instr) (x : Reg) (b : Byte) (h : exec i s = .next ((s.setReg x b).endCycle (s.pc + 2)))
      (h' : exec i (s.edit e) = .next (((s.edit e).setReg x b).endCycle (s.pc + 2))) : Follows i s e :=
    .of_frame h h' (onlyChanges_setReg s x b)
  have hnone (i : Instr) (p : Word) (h : exec i s = .next (s.endCycle p))
      (h' : exec i (s.edit e) = .next ((s.edit e).endCycle p)) : Follows i s e :=
    .of_frame h h' (.refl s)
  cases i with
  | clearScreen =>
    exact .done (e₁ := { e with dirty := true }) (exec_clearScreen s) (exec_clearScreen (s.edit e))
      ⟨id, fun _ => rfl, id, id⟩
  | ret => exact follows_ret s e
  | jump a => exact hnone _ _ (exec_jump a s) (exec_jump a _)
  | call a => exact follows_call s e a
  | skipEqualByte x kk => exact hnone _ _ (exec_skipEqualByte x kk s) (exec_skipEqualByte x kk _)
  | skipNotEqualByte x kk => exact hnone _ _ (exec_skipNotEqualByte x kk s) (exec_skipNotEqualByte x kk _)
  | skipEqualReg x y => exact hnone _ _ (exec_skipEqualReg x y s) (exec_skipEqualReg x y _)
  | loadByte x kk => exact hreg _ x _ (exec_loadByte x kk s) (exec_loadByte x kk _)
  | addByte x kk => exact hreg _ x _ (exec_addByte x kk s) (exec_addByte x kk _)
  | move x y => exact hreg _ x _ (exec_move x y s) (exec_move x y _)
  | or x y => exact hreg _ x _ (exec_or x y s) (exec_or x y _)
  | and x y => exact hreg _ x _ (exec_and x y s) (exec_and x y _)
  | xor x y => exact hreg _ x _ (exec_xor x y s) (exec_xor x y _)
  | add x y =>
    have h' := exec_add x y (s.edit e)
    rw [s.edit_aluFlagLast e] at h'
    exact .of_frame (exec_add x y s) h' (onlyChanges_aluFlagLast s .add x _)
  | sub x y => exact follows_aluFlagged s e (fun _ => rfl) (exec_sub x y s) (exec_sub x y _)
  | shr x => exact follows_aluFlagged s e (fun _ => rfl) (exec_shr x s) (exec_shr x _)
  | subn x y => exact follows_subn s e x y
  | shl x => exact follows_aluFlagged s e (fun _ => rfl) (exec_shl x s) (exec_shl x _)
  | skipNotEqualReg x y => exact hnone _ _ (exec_skipNotEqualReg x y s) (exec_skipNotEqualReg x y _)
  | loadIndex a => exact .of_frame (exec_loadIndex a s) (exec_loadIndex a _) (onlyChanges_setIndex s _)
  | jumpV0 a => exact hnone _ _ (exec_jumpV0 a s) (exec_jumpV0 a _)
  | random x kk => exact follows_random s e x kk (hrandom x kk rfl)
  | draw x y n => exact follows_draw s e x y n
  | skipKeyPressed x =>
    exact follows_poll s e exec_skipKeyPressed_of_le (exec_skipKeyPressed_of_le (s := s.edit e))
      exec_skipKeyPressed_of_gt (exec_skipKeyPressed_of_gt (s := s.edit e))
  | skipKeyNotPressed x =>
    exact follows_poll s e exec_skipKeyNotPressed_of_le (exec_skipKeyNotPressed_of_le (s := s.edit e))
      exec_skipKeyNotPressed_of_gt (exec_skipKeyNotPressed_of_gt (s := s.edit e))
  | getDelay x => exact hreg _ x _ (exec_getDelay x s) (exec_getDelay x _)
  | waitKeyPressed x =>
    obtain ⟨e', heq, hkeeps⟩ := follows_awaitKey s e ⟨x, s.pc⟩
    exact ⟨_, e', exec_waitKeyPressed x s, (exec_waitKeyPressed x (s.edit e)).trans (congrArg _ heq), hkeeps⟩
  | setDelay x => exact .of_frame (exec_setDelay x s) (exec_setDelay x _) (onlyChanges_setDelay s _)
  | setSound x =>
    exact .done (e₁ := { e with st := s.reg x }) (exec_setSound x s) (exec_setSound x (s.edit e))
      ⟨fun _ => rfl, id, id, id⟩
  | addI x => exact .of_frame (exec_addI x s) (exec_addI x _) (onlyChanges_setIndex s _)
  | loadSprite x => exact .of_frame (exec_loadSprite x s) (exec_loadSprite x _) (onlyChanges_setIndex s _)
  | loadBCD x => exact follows_store s e (by rw [bcdDigits_length]; decide) (exec_loadBCD x s) (exec_loadBCD x _)
  | saveRegisters x =>
    exact follows_store s e (by rw [State.regsUpTo_length]; omega) (exec_saveRegisters x s) (exec_saveRegisters x _)
  | loadRegisters x => exact follows_loadRegisters s e x

end Edits

/-- `exec` of the edited machine: the inversion of `follows_every_instr`. -/
theorem exec_edit {i : Instr} {s t : State} {e : Unread} (hrandom : ∀ x kk, i = .random x kk → e.rng = s.rng)
    (h : exec i s = .next t) : ∃ e', exec i (s.edit e) = .next (t.edit e') ∧ KeepsUp s e t e' := by
  obtain ⟨t', e', h', hedit, hkeeps⟩ := follows_every_instr s e i hrandom
  rw [h] at h'
  cases h'
  exact ⟨e', hedit, hkeeps⟩

/-- A step of a machine whose random source is not edited. -/
theorem step_edit {s t : State} {e : Unread} (hrng : e.rng = s.rng) (h : step s = .next t) :
    ∃ e', step (s.edit e) = .next (t.edit e') ∧ KeepsUp s e t e' := by
  have hsame (t : State) (hst : t.st = s.st) (hd : t.dirty = s.dirty) (hc : t.collision = s.collision)
      (hr : t.rng = s.rng) : KeepsUp s e t e := .of_eq hst hd hc hr
  rcases step_cases h with ⟨hfault, rfl⟩ | ⟨hrun, w, hhold, rfl⟩ | ⟨hrun, hhold, hno, rfl⟩ | ⟨hready, hf, rfl⟩ |
    ⟨hready, w, o, hf, hd, rfl⟩ | ⟨hready, w, i, hf, hd, hexec⟩
  · exact ⟨e, step_of_fault (s := s.edit e) hfault, hsame _ rfl rfl rfl rfl⟩
  · obtain ⟨e', heq, hkeeps⟩ := follows_awaitKey s e w
    exact ⟨e', by rw [step_of_hold (s := s.edit e) hrun hhold, heq], hkeeps⟩
  · exact ⟨e, step_of_not_running (s := s.edit e) hrun hhold hno, hsame _ rfl rfl rfl rfl⟩
  · exact ⟨e, step_of_no_fetch (s := s.edit e) hready hf, hsame _ rfl rfl rfl rfl⟩
  · exact ⟨e, step_of_unknownOpcode (s := s.edit e) hready hf hd, hsame _ rfl rfl rfl rfl⟩
  · obtain ⟨e', hedit, hkeeps⟩ := exec_edit (s := s.drawRunning) (e := e) (fun _ _ _ => hrng) hexec
    exact ⟨e', (step_of_decoded (s := s.edit e) hready hf hd).trans hedit,
      hkeeps.st, hkeeps.dirty, hkeeps.collision, hkeeps.rng⟩

/-- Settles O58: an edited step, in which the parts that were not edited agree. -/
theorem soundTimerAndDirtyMarkAreNeverRead : Obligations.SoundTimerAndDirtyMarkAreNeverRead := by
  intro s t b d h
  obtain ⟨e', hstep, hkeeps⟩ := step_edit (e := ⟨b, d, s.collision, s.rng⟩) rfl h
  refine ⟨_, hstep, fun p hp => ?_⟩
  have hcollision := hkeeps.collision rfl
  have hrng := hkeeps.rng rfl
  cases p <;> simp_all [Unchanged, State.edit, State.reg]

/-- Settles O59: the edit is of the random source alone, which the instruction leaves as it finds it. -/
theorem onlyRandomSeesTheRandomSource : Obligations.OnlyRandomSeesTheRandomSource := by
  intro i s t g hi h
  have hno (s t : State) (h : exec i s = .next t) : t.rng = s.rng :=
    (outcomes_of_exec h).frame .random (by
      rw [List.mem_append, random_mem_writes_iff]
      rintro (hin | ⟨x, kk, rfl⟩)
      · simp [engineParts] at hin
      · exact hi x kk rfl)
  obtain ⟨e', hexec, hkeeps⟩ := exec_edit (e := ⟨s.st, s.dirty, s.collision, g⟩)
    (fun x kk heq => absurd heq (hi x kk)) h
  have hg : e'.rng = g := hno _ _ hexec
  have he : e' = ⟨t.st, t.dirty, t.collision, g⟩ := by
    rw [← hkeeps.st rfl, ← hkeeps.dirty rfl, ← hkeeps.collision rfl, ← hg]
  rw [he] at hexec
  exact hexec

/-! ### The collision port (45_framebuffer_blitter.md R251) -/

/-- A draw that completes puts VF's value at the port; one that faults leaves the port. -/
theorem collision_of_draw {x y : Reg} {n : Nibble} {s t : State} (h : exec (.draw x y n) s = .next t)
    (hrun : s.status = .run) :
    (t.resp = some .done → (t.collision = true ↔ t.reg vf = 0x01#8)) ∧
    (t.status = .fault → t.collision = s.collision) := by
  obtain ⟨-, hdraw, hfault⟩ := drawXorsTheSpriteAndReportsCollision x y n s
  by_cases hfit : n.toNat = 0 ∨ s.i.toNat + n.toNat ≤ 0x1000
  · obtain ⟨u, hu, ⟨-, -, -, -, hframe⟩, -, -, -, -, hport⟩ := hdraw hfit
    cases h.symm.trans hu
    obtain ⟨hstatus, -⟩ := hframe .record (by decide)
    exact ⟨fun _ => hport, fun hf => by cases (hstatus.trans hrun).symm.trans hf⟩
  · obtain ⟨u, hu, -, -, -, -, hresp, hframe⟩ := hfault (by omega) (by omega)
    cases h.symm.trans hu
    refine ⟨fun hdone => ?_, fun _ => hframe .collision (by decide)⟩
    rw [hresp] at hdone
    cases hdone

/-- Settles O60: `Draw` alone writes the port; the step of the machine with another value there is an edited step. -/
theorem collisionPortKeepsTheLastDrawsFlag : Obligations.CollisionPortKeepsTheLastDrawsFlag := by
  intro s t hstep
  refine ⟨fun hne => ?_, fun w x y n hready hf hd => ?_, fun b => ?_⟩
  · obtain ⟨w, i, hf, hd, hi⟩ := instr_of_changed (p := .collision) hstep (by decide) hne
    obtain ⟨x, y, n, rfl⟩ := (collision_mem_writes_iff i).1 hi
    exact ⟨w, x, y, n, hf, hd⟩
  · rw [step_of_decoded hready hf hd] at hstep
    exact collision_of_draw (s := s.drawRunning) hstep hready.1
  · obtain ⟨e', hstep', hkeeps⟩ := step_edit (e := ⟨s.st, s.dirty, b, s.rng⟩) rfl hstep
    refine ⟨_, hstep', fun p hp => ?_⟩
    have hst := hkeeps.st rfl
    have hdirty := hkeeps.dirty rfl
    have hrng := hkeeps.rng rfl
    cases p <;> simp_all [Unchanged, State.edit, State.reg]

end Sys2Proof.Machine

/-! Reading an instruction back from its mnemonic string (30_encoding.md section 6). -/

namespace Sys2Proof.Machine

/-- The value of one uppercase hexadecimal digit. -/
def hexValue (c : Char) : BitVec 4 :=
  if c.toNat < 58 then BitVec.ofNat 4 (c.toNat - 48) else BitVec.ofNat 4 (c.toNat - 55)

@[simp] theorem hexValue_hexDigit (d : BitVec 4) : hexValue (hexDigit d) = d := by
  revert d
  decide

/-- A byte read back from its two digits. -/
def byteOfDigits (h l : Char) : Byte := hexValue h ++ hexValue l

/-- An address read back from its three digits. -/
def addrOfDigits (h m l : Char) : Addr := hexValue h ++ hexValue m ++ hexValue l

@[simp] theorem byteOfDigits_hexDigit (b : Byte) :
    byteOfDigits (hexDigit (b.extractLsb' 4 4)) (hexDigit (b.extractLsb' 0 4)) = b := by
  rw [byteOfDigits, hexValue_hexDigit, hexValue_hexDigit]
  apply BitVec.eq_of_getLsbD_eq; intro i hi
  rw [BitVec.getLsbD_append]
  interval_cases i <;> simp

@[simp] theorem addrOfDigits_hexDigit (a : Addr) :
    addrOfDigits (hexDigit (a.extractLsb' 8 4)) (hexDigit (a.extractLsb' 4 4)) (hexDigit (a.extractLsb' 0 4)) = a := by
  rw [addrOfDigits, hexValue_hexDigit, hexValue_hexDigit, hexValue_hexDigit]
  apply BitVec.eq_of_getLsbD_eq; intro i hi
  rw [BitVec.getLsbD_append, BitVec.getLsbD_append]
  interval_cases i <;> simp

/-- The instruction of a mnemonic string: the table of R90 read from right to left. -/
def parseChars : List Char → Option Instr
  | ['C', 'L', 'S'] => some .clearScreen
  | ['R', 'E', 'T'] => some .ret
  | ['J', 'P', ' ', '0', 'x', a, b, c] => some (.jump (addrOfDigits a b c))
  | ['C', 'A', 'L', 'L', ' ', '0', 'x', a, b, c] => some (.call (addrOfDigits a b c))
  | ['S', 'E', ' ', 'V', x, ',', ' ', '0', 'x', h, l] => some (.skipEqualByte (hexValue x) (byteOfDigits h l))
  | ['S', 'N', 'E', ' ', 'V', x, ',', ' ', '0', 'x', h, l] => some (.skipNotEqualByte (hexValue x) (byteOfDigits h l))
  | ['S', 'E', ' ', 'V', x, ',', ' ', 'V', y] => some (.skipEqualReg (hexValue x) (hexValue y))
  | ['L', 'D', ' ', 'V', x, ',', ' ', '0', 'x', h, l] => some (.loadByte (hexValue x) (byteOfDigits h l))
  | ['A', 'D', 'D', ' ', 'V', x, ',', ' ', '0', 'x', h, l] => some (.addByte (hexValue x) (byteOfDigits h l))
  | ['L', 'D', ' ', 'V', x, ',', ' ', 'V', y] => some (.move (hexValue x) (hexValue y))
  | ['O', 'R', ' ', 'V', x, ',', ' ', 'V', y] => some (.or (hexValue x) (hexValue y))
  | ['A', 'N', 'D', ' ', 'V', x, ',', ' ', 'V', y] => some (.and (hexValue x) (hexValue y))
  | ['X', 'O', 'R', ' ', 'V', x, ',', ' ', 'V', y] => some (.xor (hexValue x) (hexValue y))
  | ['A', 'D', 'D', ' ', 'V', x, ',', ' ', 'V', y] => some (.add (hexValue x) (hexValue y))
  | ['S', 'U', 'B', ' ', 'V', x, ',', ' ', 'V', y] => some (.sub (hexValue x) (hexValue y))
  | ['S', 'H', 'R', ' ', 'V', x] => some (.shr (hexValue x))
  | ['S', 'U', 'B', 'N', ' ', 'V', x, ',', ' ', 'V', y] => some (.subn (hexValue x) (hexValue y))
  | ['S', 'H', 'L', ' ', 'V', x] => some (.shl (hexValue x))
  | ['S', 'N', 'E', ' ', 'V', x, ',', ' ', 'V', y] => some (.skipNotEqualReg (hexValue x) (hexValue y))
  | ['L', 'D', ' ', 'I', ',', ' ', '0', 'x', a, b, c] => some (.loadIndex (addrOfDigits a b c))
  | ['J', 'P', ' ', 'V', '0', ',', ' ', '0', 'x', a, b, c] => some (.jumpV0 (addrOfDigits a b c))
  | ['R', 'N', 'D', ' ', 'V', x, ',', ' ', '0', 'x', h, l] => some (.random (hexValue x) (byteOfDigits h l))
  | ['D', 'R', 'W', ' ', 'V', x, ',', ' ', 'V', y, ',', ' ', '0', 'x', n] =>
    some (.draw (hexValue x) (hexValue y) (hexValue n))
  | ['S', 'K', 'P', ' ', 'V', x] => some (.skipKeyPressed (hexValue x))
  | ['S', 'K', 'N', 'P', ' ', 'V', x] => some (.skipKeyNotPressed (hexValue x))
  | ['L', 'D', ' ', 'V', x, ',', ' ', 'D', 'T'] => some (.getDelay (hexValue x))
  | ['L', 'D', ' ', 'V', x, ',', ' ', 'K'] => some (.waitKeyPressed (hexValue x))
  | ['L', 'D', ' ', 'D', 'T', ',', ' ', 'V', x] => some (.setDelay (hexValue x))
  | ['L', 'D', ' ', 'S', 'T', ',', ' ', 'V', x] => some (.setSound (hexValue x))
  | ['A', 'D', 'D', ' ', 'I', ',', ' ', 'V', x] => some (.addI (hexValue x))
  | ['L', 'D', ' ', 'F', ',', ' ', 'V', x] => some (.loadSprite (hexValue x))
  | ['L', 'D', ' ', 'B', ',', ' ', 'V', x] => some (.loadBCD (hexValue x))
  | ['L', 'D', ' ', '[', 'I', ']', ',', ' ', 'V', x] => some (.saveRegisters (hexValue x))
  | ['L', 'D', ' ', 'V', x, ',', ' ', '[', 'I', ']'] => some (.loadRegisters (hexValue x))
  | _ => none

/-- Each string falls into its own row, and each operand reads back. -/
theorem parseChars_formatChars : ∀ i : Instr, parseChars (formatChars i) = some i
  | .clearScreen => rfl
  | .ret => rfl
  | .jump a => congrArg (some ∘ Instr.jump) (addrOfDigits_hexDigit a)
  | .call a => congrArg (some ∘ Instr.call) (addrOfDigits_hexDigit a)
  | .skipEqualByte x kk =>
    congrArg some (congrArg₂ Instr.skipEqualByte (hexValue_hexDigit x) (byteOfDigits_hexDigit kk))
  | .skipNotEqualByte x kk =>
    congrArg some (congrArg₂ Instr.skipNotEqualByte (hexValue_hexDigit x) (byteOfDigits_hexDigit kk))
  | .skipEqualReg x y => congrArg some (congrArg₂ Instr.skipEqualReg (hexValue_hexDigit x) (hexValue_hexDigit y))
  | .loadByte x kk =>
    congrArg some (congrArg₂ Instr.loadByte (hexValue_hexDigit x) (byteOfDigits_hexDigit kk))
  | .addByte x kk =>
    congrArg some (congrArg₂ Instr.addByte (hexValue_hexDigit x) (byteOfDigits_hexDigit kk))
  | .move x y => congrArg some (congrArg₂ Instr.move (hexValue_hexDigit x) (hexValue_hexDigit y))
  | .or x y => congrArg some (congrArg₂ Instr.or (hexValue_hexDigit x) (hexValue_hexDigit y))
  | .and x y => congrArg some (congrArg₂ Instr.and (hexValue_hexDigit x) (hexValue_hexDigit y))
  | .xor x y => congrArg some (congrArg₂ Instr.xor (hexValue_hexDigit x) (hexValue_hexDigit y))
  | .add x y => congrArg some (congrArg₂ Instr.add (hexValue_hexDigit x) (hexValue_hexDigit y))
  | .sub x y => congrArg some (congrArg₂ Instr.sub (hexValue_hexDigit x) (hexValue_hexDigit y))
  | .shr x => congrArg (some ∘ Instr.shr) (hexValue_hexDigit x)
  | .subn x y => congrArg some (congrArg₂ Instr.subn (hexValue_hexDigit x) (hexValue_hexDigit y))
  | .shl x => congrArg (some ∘ Instr.shl) (hexValue_hexDigit x)
  | .skipNotEqualReg x y =>
    congrArg some (congrArg₂ Instr.skipNotEqualReg (hexValue_hexDigit x) (hexValue_hexDigit y))
  | .loadIndex a => congrArg (some ∘ Instr.loadIndex) (addrOfDigits_hexDigit a)
  | .jumpV0 a => congrArg (some ∘ Instr.jumpV0) (addrOfDigits_hexDigit a)
  | .random x kk =>
    congrArg some (congrArg₂ Instr.random (hexValue_hexDigit x) (byteOfDigits_hexDigit kk))
  | .draw x y n =>
    congrArg some (congr (congrArg₂ Instr.draw (hexValue_hexDigit x) (hexValue_hexDigit y))
      (hexValue_hexDigit n))
  | .skipKeyPressed x => congrArg (some ∘ Instr.skipKeyPressed) (hexValue_hexDigit x)
  | .skipKeyNotPressed x => congrArg (some ∘ Instr.skipKeyNotPressed) (hexValue_hexDigit x)
  | .getDelay x => congrArg (some ∘ Instr.getDelay) (hexValue_hexDigit x)
  | .waitKeyPressed x => congrArg (some ∘ Instr.waitKeyPressed) (hexValue_hexDigit x)
  | .setDelay x => congrArg (some ∘ Instr.setDelay) (hexValue_hexDigit x)
  | .setSound x => congrArg (some ∘ Instr.setSound) (hexValue_hexDigit x)
  | .addI x => congrArg (some ∘ Instr.addI) (hexValue_hexDigit x)
  | .loadSprite x => congrArg (some ∘ Instr.loadSprite) (hexValue_hexDigit x)
  | .loadBCD x => congrArg (some ∘ Instr.loadBCD) (hexValue_hexDigit x)
  | .saveRegisters x => congrArg (some ∘ Instr.saveRegisters) (hexValue_hexDigit x)
  | .loadRegisters x => congrArg (some ∘ Instr.loadRegisters) (hexValue_hexDigit x)

/-- Settles O9: the string can be read back. -/
theorem mnemonicStringsDetermineTheInstruction : Obligations.MnemonicStringsDetermineTheInstruction := by
  intro i j h
  have hchars : formatChars i = formatChars j := String.ofList_injective h
  rw [← Option.some_inj, ← parseChars_formatChars i, hchars, parseChars_formatChars j]

end Sys2Proof.Machine
